-- ==== Sys2Proof/Word.lean ====
section
/-! DEFINITION. The words of the block: every register and every payload byte is 8 bits wide (R11, R21),
an I2C address is 7 bits wide (R11). -/

namespace Sys2Proof

/-- An 8-bit register, command word or payload byte (R11). -/
abbrev Byte := BitVec 8

/-- A 7-bit I2C address (R11). -/
abbrev Addr7 := BitVec 7

end Sys2Proof
end

