-- ==== Sys2Proof/Config.lean ====
section
/-! DEFINITION. The configuration of R10, the kinds of answer the host gives (R42, R44, R45), and the free
values: opaque constants with no body, of which nothing can be proved. -/

namespace Sys2Proof

/-- The two expander chips (R41): A shows seconds and minutes, B shows the hour. -/
inductive Device where
  | a
  | b
deriving DecidableEq, Repr, Inhabited

/-- The transport's answer to `open` (R44). -/
inductive OpenResult where
  | ok
  | error
deriving DecidableEq, Repr, Inhabited

/-- The transport's answer to `write` (R45): `OK`, `SHORT(k)` with k in {0, 1}, or `ERR`. -/
inductive WriteResult where
  | ok
  | short (k : Fin 2)
  | err
deriving DecidableEq, Repr, Inhabited

/-- One answer of the host clock (R42): any triple, so three unbounded naturals (log 11). -/
structure HostTime where
  h24 : Nat
  m   : Nat
  s   : Nat
deriving DecidableEq, Repr, Inhabited

/-- `P_TRACE` (R10, R162): the host's log verbosity; no rule reads it. -/
inductive TraceLevel where
  | trace | debug | info | warn | error | off
deriving DecidableEq, Repr, Inhabited

/-- `P_BCD_OOR` (R10, R82): what ENCODE does with an input above 99. -/
inductive BcdPolicy where
  | fault
  | mask
deriving DecidableEq, Repr, Inhabited

/-- `P_PINMAP` (R10, R47): for each bit of each payload byte of each device the LED it drives, if one is
connected. An LED is only a number. No rule reads it (log 13). -/
structure PinMap where
  a0 : Vector (Option Nat) 8
  a1 : Vector (Option Nat) 8
  b0 : Vector (Option Nat) 8
  b1 : Vector (Option Nat) 8
deriving DecidableEq, Repr, Inhabited

/-- The implementation parameters of R10, fixed for the whole run. -/
structure Params where
  bus         : Nat
  addrA       : Addr7
  addrB       : Addr7
  trace       : TraceLevel
  midnightFix : Bool
  bcdOor      : BcdPolicy
  exitConfig  : Int
  exitDevice  : Int
  pinMap      : PinMap
deriving DecidableEq, Repr, Inhabited

/-- The limits R10 sets on the exit statuses: nonzero and different. -/
abbrev Params.Wf (p : Params) : Prop :=
  p.exitConfig ≠ 0 ∧ p.exitDevice ≠ 0 ∧ p.exitConfig ≠ p.exitDevice

/-! ### Free values: the answers of the oracles once the sheet of answers in `State` is used up (log 4) -/

/-- The n-th free answer of the host clock (R42: any triple). -/
opaque Config.freeNow : Nat → HostTime

/-- The n-th free answer of `open(bus, address)` (R44); it may depend on both arguments. -/
opaque Config.freeOpen : Nat × Addr7 → Nat → OpenResult

/-- The n-th free answer of `write` (R45). -/
opaque Config.freeWrite : Nat → WriteResult

/-! ### The OPEN parameters of R10 at reset (log 3) -/

opaque Config.freeBus : Nat
opaque Config.freeAddrA : Addr7
opaque Config.freeAddrB : Addr7
opaque Config.freeTrace : TraceLevel
opaque Config.freeExitConfig : Int
opaque Config.freeExitDevice : Int
opaque Config.freePinMap : PinMap

/-- The configuration the machine has at reset: every OPEN parameter free within the limits of R10, the two
others at the defaults of R10 (`P_MIDNIGHT_FIX = true`, `P_BCD_OOR = FAULT`). -/
def Config.platform : Params where
  bus         := Config.freeBus
  addrA       := Config.freeAddrA
  addrB       := Config.freeAddrB
  trace       := Config.freeTrace
  midnightFix := true
  bcdOor      := .fault
  exitConfig  := if Config.freeExitConfig = 0 then 1 else Config.freeExitConfig
  exitDevice  :=
    let c : Int := if Config.freeExitConfig = 0 then 1 else Config.freeExitConfig
    if Config.freeExitDevice = 0 ∨ Config.freeExitDevice = c then (if c = 1 then 2 else 1)
    else Config.freeExitDevice
  pinMap      := Config.freePinMap

end Sys2Proof
end

