-- ==== Sys2Proof/Syntax.lean ====
section
/-! DEFINITION. The instructions: one constructor for each row of spec/opcode_table.json, and the three input
ports with what a strobe of each carries (R60, R61, R66, R69). -/

namespace Sys2Proof

/-- One operation of the block, a row of the opcode table each (R62, R63, R67, R70). -/
inductive Instr where
  /-- NOP, command word 0x00 (R91). -/
  | nop
  /-- START, command word 0x01 (R92). -/
  | start
  /-- TICK, command word 0x02 (R93). -/
  | tick
  /-- RESYNC, command word 0x03 (R95). -/
  | resync
  /-- ENCODE on the codec port with input N (R80). -/
  | encode (n : Byte)
  /-- INVERT on the inverter port with inputs IN0 and IN1 (R122). -/
  | invert (in0 in1 : Byte)
  /-- Any reserved command word, by its two fields (R61, R63). -/
  | illegal (rsv : BitVec 5) (op : BitVec 3)
deriving DecidableEq, Repr, Inhabited

/-- The three input ports (R60), each with a format of its own. -/
inductive Port where
  | cmd
  | codec
  | inv
deriving DecidableEq, Repr, Inhabited

/-- What the host presents with one strobe: `CMD` with `CMD_VALID` (R61), `N` with `ENC_VALID` (R66),
`IN0` and `IN1` with `INV_VALID` (R69). -/
inductive Strobe where
  | cmd (w : Byte)
  | codec (n : Byte)
  | inv (in0 in1 : Byte)
deriving DecidableEq, Repr, Inhabited

/-- The port a strobe belongs to. -/
def Strobe.port : Strobe → Port
  | .cmd _   => .cmd
  | .codec _ => .codec
  | .inv _ _ => .inv

/-- The format column of the opcode table: the port an instruction is presented on. -/
def Instr.format : Instr → Port
  | .nop | .start | .tick | .resync => .cmd
  | .encode _    => .codec
  | .invert _ _  => .inv
  | .illegal _ _ => .cmd

end Sys2Proof
end

