-- ==== Sys2Proof/WellFormed.lean ====
section
/-! DEFINITION. Which terms of `Instr` stand for something a host can present. -/

namespace Sys2Proof

/-- R63: a command word is reserved when `RSV` is not zero or `OP` is 0b100 to 0b111. -/
def reservedFields (rsv : BitVec 5) (op : BitVec 3) : Bool :=
  rsv != 0 || decide (4 ≤ op.toNat)

/-- Only `illegal` has a check: its fields must be those of a reserved word (R63). Operands of the codec and
the inverter ports take every value (R68, R69). -/
def Instr.wf : Instr → Bool
  | .nop | .start | .tick | .resync => true
  | .encode _       => true
  | .invert _ _     => true
  | .illegal rsv op => reservedFields rsv op

end Sys2Proof
end

