-- ==== Sys2Proof/Decode.lean ====
section
/-! DEFINITION. Decoding of what the ports carry (R60 to R71), and the encoder written from the same tables. -/

namespace Sys2Proof

/-- `RSV = CMD[7:3]` (R61). -/
def rsvField (w : Byte) : BitVec 5 := w.extractLsb' 3 5

/-- `OP = CMD[2:0]` (R61). -/
def opField (w : Byte) : BitVec 3 := w.extractLsb' 0 3

/-- R65, total on command words. -/
def decodeCmd (w : Byte) : Instr :=
  if rsvField w ≠ 0 then .illegal (rsvField w) (opField w)
  else if opField w = 0 then .nop
  else if opField w = 1 then .start
  else if opField w = 2 then .tick
  else if opField w = 3 then .resync
  else .illegal (rsvField w) (opField w)

/-- The operation a strobe asks for: R65 on the command port; every strobe of the codec port is ENCODE (R67)
and every strobe of the inverter port is INVERT (R70), operands unchanged (R71). -/
def decode : Strobe → Instr
  | .cmd w       => decodeCmd w
  | .codec n     => .encode n
  | .inv in0 in1 => .invert in0 in1

/-- Why a list of bytes holds no operation of a port. -/
inductive DecodeError where
  /-- Fewer bytes than the port's format has (R61, R66, R69). Safe: nothing is run. -/
  | tooFewBytes (p : Port)
deriving DecidableEq, Repr

/-- The strobe at the front of a list of bytes driven on a port, and the bytes after it. A command is one byte
(R71), `N` is one byte (R66), `IN0` comes before `IN1` (R69). -/
def strobeOfBytes (p : Port) (bytes : List Byte) : Except DecodeError (Strobe × List Byte) :=
  match p, bytes with
  | .cmd, w :: rest                => .ok (.cmd w, rest)
  | .codec, n :: rest              => .ok (.codec n, rest)
  | .inv, in0 :: in1 :: rest       => .ok (.inv in0 in1, rest)
  | p, _                           => .error (.tooFewBytes p)

/-- Decoding of raw bytes on a port: rejected by name only where bytes are missing. -/
def decodeBytes (p : Port) (bytes : List Byte) : Except DecodeError (Instr × List Byte) :=
  match strobeOfBytes p bytes with
  | .ok (x, rest) => .ok (decode x, rest)
  | .error e      => .error e

/-- The words of an instruction, from the encoding tables of R61, R62, R66 and R69. -/
def encode : Instr → Strobe
  | .nop            => .cmd 0x00#8
  | .start          => .cmd 0x01#8
  | .tick           => .cmd 0x02#8
  | .resync         => .cmd 0x03#8
  | .encode n       => .codec n
  | .invert in0 in1 => .inv in0 in1
  | .illegal rsv op => .cmd (rsv ++ op)

/-- The bytes a strobe drives on its port, the first one first. -/
def Strobe.bytes : Strobe → List Byte
  | .cmd w       => [w]
  | .codec n     => [n]
  | .inv in0 in1 => [in0, in1]

/-- Which strobe a word of the opcode table stands for. The table gives the command rows 8 bits. It gives the
codec and the inverter row no bits at all (R67): a word of no bits is read as the codec's, with `N = 0`, and a
word of 16 bits as the inverter's, `IN0` the first byte (log 10). -/
def strobeOfTableWord (nbits w : Nat) : Option Strobe :=
  match nbits with
  | 0  => some (.codec 0)
  | 8  => some (.cmd (BitVec.ofNat 8 w))
  | 16 => some (.inv (BitVec.ofNat 8 w) (BitVec.ofNat 8 (w / 256)))
  | _  => none

/-- The instruction the decoder reads from a word of the opcode table. -/
def decodeTableWord (nbits w : Nat) : Option Instr :=
  match strobeOfTableWord nbits w with
  | some x =>
    match decodeBytes x.port x.bytes with
    | .ok (i, _) => some i
    | .error _   => none
  | none => none

end Sys2Proof
end

