-- ==== Sys2Proof/Machine/State.lean ====
section
/-! DEFINITION. The state of the block (R20), the platform state beside it (R35, R36), the configuration (R10),
and what the host and the environment are about to do; the reasons a step can stop; the state after reset. -/

namespace Sys2Proof.Machine

/-- `STATUS.PHASE` (R27): 0b00 OFF, 0b01 RUN, 0b10 FATAL; 0b11 is never held, so it has no constructor. -/
inductive Phase where
  | off
  | run
  | fatal
deriving DecidableEq, Repr, Inhabited

/-- `STATUS.FCODE` (R27, R141): 0x0 to 0x8; 0x9 to 0xF are never raised, so they have no constructor. -/
inductive FCode where
  | none
  | illegalCmd
  | notStarted
  | restart
  | overlap
  | config
  | deviceCreate
  | hostRange
  | bcdRange
deriving DecidableEq, Repr, Inhabited

/-- ClockState (R18): the three clock registers `SEC`, `MIN`, `HOUR` (R21, R22, R23). -/
structure Clock where
  sec  : Byte
  min  : Byte
  hour : Byte
deriving DecidableEq, Repr, Inhabited

/-- A logical payload `(t, b0, b1)`, before inversion (R120). -/
structure Payload where
  dev : Device
  b0  : Byte
  b1  : Byte
deriving DecidableEq, Repr, Inhabited

/-- A transport handle (R31). -/
inductive Handle where
  | closed
  | opened
deriving DecidableEq, Repr, Inhabited

/-- An expander output latch (R35): the two wire bytes last written, or `unknown`. -/
inductive Latch where
  | unknown
  | holds (w0 w1 : Byte)
deriving DecidableEq, Repr, Inhabited

/-- One event of `LOG` (R36). -/
inductive Event where
  | open (t : Device) (r : OpenResult)
  | read (now : HostTime)
  | write (t : Device) (addr : Addr7) (w0 w1 : Byte) (r : WriteResult)
deriving DecidableEq, Repr, Inhabited

/-- One output of the codec port (`Q`, `OOR`, R66) or of the inverter port (`OUT0`, `OUT1`, R69). -/
inductive PortOut where
  | codec (q : Byte) (oor : Bool)
  | inv (out0 out1 : Byte)
deriving DecidableEq, Repr, Inhabited

/-- The sheet of answers the host will give, the next one first (R42, R44, R45; log 4). -/
structure Answers where
  now    : List HostTime
  opens  : List OpenResult
  writes : List WriteResult
deriving DecidableEq, Repr, Inhabited

/-- One move of the host or of the environment (log 5). -/
inductive Stimulus where
  /-- The host presents a strobe on a port (R61, R66, R69). -/
  | present (x : Strobe)
  /-- The environment gives the writer agent its turn (R127, R153). -/
  | drain
  /-- The host presents nothing until `BUSY = 0` or `PHASE = FATAL` (R73, WAIT). -/
  | wait
  /-- The host settles the answers it will give from now on (R72, the answers written beside a command). -/
  | answers (a : Answers)
  /-- A reset of the block (R170). -/
  | reset
deriving DecidableEq, Repr, Inhabited

/-- Why a step stops with a fault. No fault the spec gives a code ends a run of the model: raising one (R142)
is a next state. -/
inductive Fault where
  /-- Raised by every instruction, by the writer agent and by an idle machine in phase FATAL: no agent of the
  block has a step there (R143). Safe: the hardware takes no step either (log 6). -/
  | halted
  /-- Raised by TICK in phase RUN while the clock registers hold `⊥` (R14, R26), in states no run reaches.
  Safe (log 9). -/
  | noValue
  /-- Raised by TICK when it would apply `bcd` to a value above 99 (R83), in states no run reaches.
  Safe (log 9). -/
  | bcdAbove99
  /-- Raised by the writer agent when an entry of WQ is for a device whose handle is closed (R45, R127), in
  states no run reaches. Safe (log 9). -/
  | handleClosed
deriving DecidableEq, Repr, Inhabited

/-- Why a step is refused. -/
inductive Refusal where
  /-- An instruction that has no meaning in the model. No arm of `exec` raises it. Safe. -/
  | notModelled (mnemonic : String)
deriving DecidableEq, Repr, Inhabited

/-- The machine. The first seven fields are the block's (R20; `BUSY` is computed from `wq`, R29), the next three
the platform's (R35, R36), `cfg` is the configuration (R10), the last five are the model's own (log 4, 5, 7, 22). -/
@[ext]
structure State where
  /-- `SEC`, `MIN`, `HOUR`; `none` is `⊥`, held by all three at once (R26; log 1). -/
  clock   : Option Clock
  /-- `STATUS.PHASE` (R27). -/
  phase   : Phase
  /-- `STATUS.FAULT` (R27). -/
  fault   : Bool
  /-- `STATUS.FCODE` (R27). -/
  fcode   : FCode
  /-- The write queue `WQ`, head first (R30). -/
  wq      : List Payload
  /-- `HANDLE_A` (R31). -/
  handleA : Handle
  /-- `HANDLE_B` (R31). -/
  handleB : Handle
  /-- `LATCH_A` (R35). -/
  latchA  : Latch
  /-- `LATCH_B` (R35). -/
  latchB  : Latch
  /-- `LOG`, oldest event first (R36). -/
  log     : List Event
  /-- The configuration (R10); no step writes it (R20; log 3). -/
  cfg     : Params
  /-- The outputs of the codec and inverter ports, oldest first (log 7). -/
  outs    : List PortOut
  /-- The bus and address of every `open` the transport was called with, oldest first (R10, R44; log 22). -/
  openCalls : List (Nat × Addr7)
  /-- What the host and the environment do next, in order (log 5). -/
  sched   : List Stimulus
  /-- The answers the host will give (log 4). -/
  answers : Answers
  /-- How many free answers have been drawn (log 4). -/
  draws   : Nat
deriving DecidableEq, Repr

/-- The machine right after power-on reset (R38, R170), the configuration open (log 3) and nothing yet presented. -/
def State.reset : State where
  clock   := none
  phase   := .off
  fault   := false
  fcode   := .none
  wq      := []
  handleA := .closed
  handleB := .closed
  latchA  := .unknown
  latchB  := .unknown
  log     := []
  cfg     := Config.platform
  outs    := []
  openCalls := []
  sched   := []
  answers := ⟨[], [], []⟩
  draws   := 0

/-- What a step of this machine answers. -/
abbrev Result := Host.Outcome State Fault Refusal

end Sys2Proof.Machine
end

