-- ==== Sys2Proof/Machine/Operands.lean ====
section
/-! DEFINITION. The operand forms of the ports and the functions on bytes: `bcd`, `bcd_mask`, `unbcd`, `inv` and
`to12`. -/

namespace Sys2Proof.Machine

/-- The codec's integer input: `N` zero-extended (R68). -/
def codecInput (n : Byte) : Nat := n.toNat

/-- The largest input of the codec with a result of its own (R11, R80). -/
def bcdLimit : Nat := 99

/-- `bcd(n)` (R83): the tens digit in bits [7:4], the ones digit in bits [3:0]. Every caller of the model stays
within `n ≤ 99`, where the rule defines it. -/
def bcd (n : Nat) : Byte := BitVec.ofNat 8 (((n / 10) <<< 4) ||| (n % 10))

/-- `bcd_mask(n)` (R82): the same formula masked to 8 bits, for the policy `MASK`. -/
def bcdMask (n : Nat) : Byte := BitVec.ofNat 8 ((((n / 10) <<< 4) ||| (n % 10)) &&& 0xFF)

/-- The tens nibble `q[7:4]` of a packed-BCD byte (R81). -/
def tensNibble (q : Byte) : Nat := (q.extractLsb' 4 4).toNat

/-- The ones nibble `q[3:0]` of a packed-BCD byte (R81). -/
def onesNibble (q : Byte) : Nat := (q.extractLsb' 0 4).toNat

/-- `unbcd(q)` (R87), a function for stating claims: defined only when both nibbles are decimal digits. -/
def unbcd (q : Byte) : Option Nat :=
  if tensNibble q ≤ 9 ∧ onesNibble q ≤ 9 then some (10 * tensNibble q + onesNibble q) else none

/-- `inv(x) = x ^ 0xFF` (R123). -/
def inv (x : Byte) : Byte := x ^^^ 0xFF#8

/-- `to12(h24)` (R98) under `P_MIDNIGHT_FIX = fix`. -/
def to12 (fix : Bool) (h24 : Nat) : Nat :=
  if 12 < h24 then h24 - 12
  else if h24 = 0 ∧ fix = true then 12
  else h24

/-- The host clock's contract (R42, R43): hour 0 to 23, minute and second 0 to 59. -/
def hostTimeOk (t : HostTime) : Bool := decide (t.h24 ≤ 23) && decide (t.m ≤ 59) && decide (t.s ≤ 59)

/-- The clock registers `resync` writes from an answer of the host clock (R96). -/
def clockOf (fix : Bool) (t : HostTime) : Clock where
  sec  := BitVec.ofNat 8 t.s
  min  := BitVec.ofNat 8 t.m
  hour := BitVec.ofNat 8 (to12 fix t.h24)

/-- The seconds/minutes payload of device A (R99). -/
def smPayload (c : Clock) : Payload := ⟨.a, bcd c.sec.toNat, bcd c.min.toNat⟩

/-- The filler, before inversion (R11, R100). -/
def filler : Byte := 0xFF#8

/-- The hours/filler payload of device B (R100). -/
def hPayload (c : Clock) : Payload := ⟨.b, bcd c.hour.toNat, filler⟩

/-- The initialisation payload of a device (R126). -/
def initPayload (d : Device) : Payload := ⟨d, 0xFF#8, 0xFF#8⟩

end Sys2Proof.Machine
end

