-- ==== Sys2Proof/Machine/Flags.lean ====
section
/-! DEFINITION. The codec's flag `OOR` and the status register: `BUSY`, the codes and the byte the host reads. -/

namespace Sys2Proof.Machine

/-- `OOR` (R66, R80): the input is out of the codec's range. Combinational, never stored (R34). -/
def oor (n : Nat) : Bool := decide (bcdLimit < n)

/-- `STATUS.BUSY` (R29): 1 exactly when `WQ` holds an entry. -/
def State.busy (s : State) : Bool := !s.wq.isEmpty

/-- The bits of `STATUS.PHASE` (R27). -/
def phaseBits : Phase → BitVec 2
  | .off   => 0b00#2
  | .run   => 0b01#2
  | .fatal => 0b10#2

/-- The code of a fault (R141). -/
def fcodeBits : FCode → BitVec 4
  | .none         => 0x0#4
  | .illegalCmd   => 0x1#4
  | .notStarted   => 0x2#4
  | .restart      => 0x3#4
  | .overlap      => 0x4#4
  | .config       => 0x5#4
  | .deviceCreate => 0x6#4
  | .hostRange    => 0x7#4
  | .bcdRange     => 0x8#4

/-- `STATUS` as the host reads it (R27): FCODE [7:4], FAULT [3], BUSY [2], PHASE [1:0]. Reading it is no step
and changes nothing. -/
def State.status (s : State) : Byte :=
  fcodeBits s.fcode ++ (BitVec.ofBool s.fault ++ (BitVec.ofBool s.busy ++ phaseBits s.phase))

/-- The exit status the host derives from `FCODE` (R154): two codes have one, the others have none. -/
def State.exitStatus (s : State) : Option Int :=
  match s.fcode with
  | .config       => some s.cfg.exitConfig
  | .deviceCreate => some s.cfg.exitDevice
  | _             => none

end Sys2Proof.Machine
end

