-- ==== Sys2Proof/Machine/Ops.lean ====
section
/-! DEFINITION. The shared operations: the interface primitives of R15 (`HostNow`, `Open`, `Enqueue`, `BusWrite`,
`raise Fault`), the checks every command passes first (R153), and the reset of the block (R170). -/

namespace Sys2Proof.Machine

/-! ### Registers by device -/

/-- The 7-bit address of a device (R32, R41). -/
def addrOf (p : Params) : Device → Addr7
  | .a => p.addrA
  | .b => p.addrB

/-- The target of a device, `(P_BUS, P_ADDR)` (R32). -/
def targetOf (p : Params) (d : Device) : Nat × Addr7 := (p.bus, addrOf p d)

/-- `HANDLE_t` (R31). -/
def State.handle (s : State) : Device → Handle
  | .a => s.handleA
  | .b => s.handleB

/-- `HANDLE_t <- open` (R44). -/
def State.setOpened (s : State) : Device → State
  | .a => { s with handleA := .opened }
  | .b => { s with handleB := .opened }

/-- `LATCH_t` (R35). -/
def State.latch (s : State) : Device → Latch
  | .a => s.latchA
  | .b => s.latchB

/-- `LATCH_t <- l` (R52). -/
def State.setLatch (s : State) (d : Device) (l : Latch) : State :=
  match d with
  | .a => { s with latchA := l }
  | .b => { s with latchB := l }

/-- What a write leaves in the latch (R52). -/
def latchAfter (w0 w1 : Byte) : WriteResult → Latch
  | .ok => .holds w0 w1
  | .short _ => .unknown
  | .err => .unknown

/-! ### The interface primitives of R15 -/

/-- The answer `HostNow()` is about to give: the next one on the sheet, else a free one (R42; log 4). -/
def State.nextNow (s : State) : HostTime :=
  match s.answers.now with
  | t :: _ => t
  | []     => Config.freeNow s.draws

/-- The state after one `HostNow()`: the answer is used up and `Read` is in `LOG` (R42). -/
def State.afterNow (s : State) : State :=
  { s with
    answers := { s.answers with now := s.answers.now.tail }
    draws   := if s.answers.now.isEmpty then s.draws + 1 else s.draws
    log     := s.log ++ [.read s.nextNow] }

/-- The answer the transport is about to give to `open` for a device (R44): the next one on the sheet, else a free
one of the bus and the address it is asked for (log 4). -/
def State.nextOpen (s : State) (d : Device) : OpenResult :=
  match s.answers.opens with
  | r :: _ => r
  | []     => Config.freeOpen (targetOf s.cfg d) s.draws

/-- The state after one `Open(t)` (R44): the transport was called with the bus and the address of `t`, unchanged
(R10, R41; log 22), the answer is used up, `Open(t, r)` is in `LOG`, and the handle is open if the answer is `ok`. -/
def State.afterOpen (s : State) (d : Device) : State :=
  let t : State :=
    { s with
      answers   := { s.answers with opens := s.answers.opens.tail }
      draws     := if s.answers.opens.isEmpty then s.draws + 1 else s.draws
      log       := s.log ++ [.open d (s.nextOpen d)]
      openCalls := s.openCalls ++ [targetOf s.cfg d] }
  match s.nextOpen d with
  | .ok    => t.setOpened d
  | .error => t

/-- The answer `BusWrite` is about to give (R45; log 4). -/
def State.nextWrite (s : State) : WriteResult :=
  match s.answers.writes with
  | r :: _ => r
  | []     => Config.freeWrite s.draws

/-- The state after one `BusWrite(t, w0, w1)` (R45, R52): the answer is used up, `Write` is in `LOG`, and the
latch of the device follows the answer. -/
def State.busWrite (s : State) (d : Device) (w0 w1 : Byte) : State :=
  let t : State :=
    { s with
      answers := { s.answers with writes := s.answers.writes.tail }
      draws   := if s.answers.writes.isEmpty then s.draws + 1 else s.draws
      log     := s.log ++ [.write d (addrOf s.cfg d) w0 w1 s.nextWrite] }
  t.setLatch d (latchAfter w0 w1 s.nextWrite)

/-- `Enqueue(t, b0, b1)` (R15, R30): append to the tail of `WQ`. -/
def State.enqueue (s : State) (p : Payload) : State := { s with wq := s.wq ++ [p] }

/-- A codec or inverter strobe drives its outputs (R66, R69; log 7). -/
def State.output (s : State) (o : PortOut) : State := { s with outs := s.outs ++ [o] }

/-- `raise Fault(code)` (R142, R17), the one way a fault is taken: `s0` is the state before the step, `s` the
state reached when the fault is raised. The step is undone but for `STATUS`, for the events already in `LOG`, for
the calls of the transport they stand for and for the host's answers that were used; the first code is kept. No state is saved and no vector is taken (R154). -/
def State.raiseAt (s0 : State) (code : FCode) (s : State) : State :=
  { s0 with
    phase     := .fatal
    fault     := true
    fcode     := if s0.fault then s0.fcode else code
    log       := s.log
    openCalls := s.openCalls
    answers   := s.answers
    draws     := s.draws }

/-- `raise Fault(code)` before the step has touched the host. -/
def State.raise (s : State) (code : FCode) : State := s.raiseAt code s

/-- A reset of the block (R170, R38), the only way out of phase FATAL (R155): the block's state and `LOG` start
again, the latches belong to the chips and stay, and what is the host's stays (log 18). -/
def State.blockReset (s : State) : State :=
  { s with
    clock := none, phase := .off, fault := false, fcode := .none, wq := []
    handleA := .closed, handleB := .closed, log := [], outs := [], openCalls := [] }

/-! ### The checks of R153 -/

/-- Check 1 of R153 (R143): in phase FATAL there is no step. -/
def State.ifNotFatal (s : State) (o : Result) : Result :=
  match s.phase with
  | .fatal => .fault .halted
  | .off   => o
  | .run   => o

/-- Check 4 of R153 (R147): a command with writes of the previous one outstanding raises OVERLAP. -/
def State.ifNotBusy (s : State) (t : State) : State :=
  if s.busy then s.raise .overlap else t

/-! ### Procedures of one command -/

/-- How a procedure of the clock state machine ends: with the clock registers it leaves, or with a fault. The
registers travel beside the state and reach it when the command is committed, since a command is one atomic step
(R17). -/
inductive Flow where
  | done (c : Clock) (s : State)
  | raised (code : FCode) (s : State)
deriving DecidableEq, Repr

/-- The end of a command begun in `s0` (R17). -/
def Flow.commit (s0 : State) : Flow → State
  | .done c s      => { s with clock := some c }
  | .raised code s => s0.raiseAt code s

end Sys2Proof.Machine
end

