-- ==== Sys2Proof/Machine/Clock.lean ====
section
/-! DEFINITION. The clock state machine: the internal procedures (R94 to R100) and the commands NOP, START, TICK,
RESYNC and the reserved words (R91, R92, R93, R95, R144). -/

namespace Sys2Proof.Machine

/-! ### Internal procedures -/

/-- `emit_SM()` (R99) with the registers as they are when it runs. -/
def emitSM (c : Clock) (s : State) : State := s.enqueue (smPayload c)

/-- `emit_H()` (R100). -/
def emitH (c : Clock) (s : State) : State := s.enqueue (hPayload c)

/-- `resync()` (R96): one host clock read; out of contract it raises HOST_RANGE (R43), else all three registers
are overwritten and the S/M payload is queued before the H payload. -/
def resync (s : State) : Flow :=
  if hostTimeOk s.nextNow then
    let c := clockOf s.cfg.midnightFix s.nextNow
    .done c (emitH c (emitSM c s.afterNow))
  else .raised .hostRange s.afterNow

/-- The emission a procedure makes after its cascade call (R101). -/
def Flow.thenEmit (f : Flow) (emit : Clock → State → State) : Flow :=
  match f with
  | .done c s      => .done c (emit c s)
  | .raised code s => .raised code s

/-- `incHour()` (R97). The 1 written before `resync` is overwritten by it in the same step. -/
def incHour (c : Clock) (s : State) : Flow :=
  let hour := c.hour + 1
  (if 12 < hour.toNat then resync s else .done { c with hour := hour } s).thenEmit emitH

/-- `incMinute()` (R94). -/
def incMinute (c : Clock) (s : State) : Flow :=
  let min := c.min + 1
  (if 59 < min.toNat then incHour { c with min := 0 } s else .done { c with min := min } s).thenEmit emitSM

/-- The body of TICK (R93) from the registers `c`. The emission of a TICK without a carry is the only one whose
minutes no rule has just brought in range, so `bcd`'s contract (R83) is checked there (log 9). -/
def tickStep (c : Clock) (s : State) : Result :=
  let sec := c.sec + 1
  if 59 < sec.toNat then .next ((incMinute { c with sec := 0 } s).commit s)
  else if bcdLimit < c.min.toNat then .fault .bcdAbove99
  else
    let c' : Clock := { c with sec := sec }
    .next ((Flow.done c' (emitSM c' s)).commit s)

/-- The end of START (R92): the initialisation payloads are queued, `resync` runs, and the phase becomes RUN. -/
def startDevicesOpen (s0 s : State) : State :=
  match resync ((s.enqueue (initPayload .a)).enqueue (initPayload .b)) with
  | .done c t      => { t with clock := some c, phase := .run }
  | .raised code t => s0.raiseAt code t

/-- The body of START (R92) after the checks of R153: RESTART, CONFIG, DEVICE_CREATE for A, then for B, then
HOST_RANGE, in that order. -/
def startStep (s : State) : State :=
  if s.phase = .run then s.raise .restart
  else if s.cfg.addrA = s.cfg.addrB then s.raise .config
  else
    let sA := s.afterOpen .a
    match s.nextOpen .a with
    | .error => s.raiseAt .deviceCreate sA
    | .ok =>
      let sB := sA.afterOpen .b
      match sA.nextOpen .b with
      | .error => s.raiseAt .deviceCreate sB
      | .ok    => startDevicesOpen s sB

/-! ### Commands -/

/-- NOP (R91): no effect, also while busy and in phase OFF. -/
def execNop (s : State) : Result := s.ifNotFatal (.next s)

/-- START (R92). -/
def execStart (s : State) : Result := s.ifNotFatal (.next (s.ifNotBusy (startStep s)))

/-- TICK (R93): OVERLAP, then NOT_STARTED, then the advance of one second. -/
def execTick (s : State) : Result :=
  s.ifNotFatal <|
    if s.busy then .next (s.raise .overlap)
    else if s.phase = .off then .next (s.raise .notStarted)
    else
      match s.clock with
      | none   => .fault .noValue
      | some c => tickStep c s

/-- RESYNC (R95): OVERLAP, then NOT_STARTED, then `resync`. -/
def execResync (s : State) : Result :=
  s.ifNotFatal (.next (s.ifNotBusy
    (if s.phase = .off then s.raise .notStarted else (resync s).commit s)))

/-- A reserved command word (R63, R144): ILLEGAL_CMD in any phase but FATAL and whatever `BUSY` is. The word's
fields are not recorded (R142). -/
def execIllegal (_rsv : BitVec 5) (_op : BitVec 3) (s : State) : Result :=
  s.ifNotFatal (.next (s.raise .illegalCmd))

end Sys2Proof.Machine
end

