-- ==== Sys2Proof/Machine/Codec.lean ====
section
/-! DEFINITION. The BCD codec: ENCODE (R80). -/

namespace Sys2Proof.Machine

/-- What an ENCODE strobe with the integer input `n` does outside phase FATAL (R80, R82): in range `Q = bcd(n)`
with `OOR = 0`; out of range BCD_RANGE and no output under the policy `FAULT` (log 8), the masked formula with
`OOR = 1` under `MASK`. -/
def encodeStep (n : Nat) (s : State) : State :=
  if oor n then
    match s.cfg.bcdOor with
    | .fault => s.raise .bcdRange
    | .mask  => s.output (.codec (bcdMask n) true)
  else s.output (.codec (bcd n) false)

/-- ENCODE (R80): checked only against FATAL (R153), so it runs while `BUSY = 1` and in phase OFF. -/
def execEncode (n : Byte) (s : State) : Result :=
  s.ifNotFatal (.next (encodeStep (codecInput n) s))

end Sys2Proof.Machine
end

