-- ==== Sys2Proof/Machine/Inverter.lean ====
section
/-! DEFINITION. The active-low inverter's port: INVERT (R122). -/

namespace Sys2Proof.Machine

/-- INVERT (R122): both bytes complemented on the port's outputs; no bus write, no queue, no flag. Checked only
against FATAL (R153). -/
def execInvert (in0 in1 : Byte) (s : State) : Result :=
  s.ifNotFatal (.next (s.output (.inv (inv in0) (inv in1))))

end Sys2Proof.Machine
end

