-- ==== Sys2Proof/Machine/Dispatch.lean ====
section
/-! DEFINITION. Which meaning each instruction has. -/

namespace Sys2Proof.Machine

def exec (i : Instr) (s : State) : Host.Outcome State Fault Refusal :=
  match i with
  | .nop => Sys2Proof.Machine.execNop s
  | .start => Sys2Proof.Machine.execStart s
  | .tick => Sys2Proof.Machine.execTick s
  | .resync => Sys2Proof.Machine.execResync s
  | .encode n => Sys2Proof.Machine.execEncode n s
  | .invert in0 in1 => Sys2Proof.Machine.execInvert in0 in1 s
  | .illegal rsv op => Sys2Proof.Machine.execIllegal rsv op s

end Sys2Proof.Machine
end

