-- ==== Sys2Proof/Machine/Writer.lean ====
section
/-! DEFINITION. The expander writer: the step of the writer agent (R127). -/

namespace Sys2Proof.Machine

/-- The transfer of one payload (R127): both bytes complemented, the filler included (R123), then one write of
two bytes, byte 0 first (R46). -/
def State.sendPayload (s : State) (p : Payload) : State := s.busWrite p.dev (inv p.b0) (inv p.b1)

/-- The writer agent's turn (R127): no step in phase FATAL; nothing to do when `WQ` is empty; else the head of
`WQ` is removed and sent. Whatever the transport answers, nothing in the block changes (R128). -/
def writerTurn (s : State) : Result :=
  s.ifNotFatal <|
    match s.wq with
    | []     => .next s
    | p :: q =>
      match s.handle p.dev with
      | .opened => .next (({ s with wq := q } : State).sendPayload p)
      | .closed => .fault .handleClosed

end Sys2Proof.Machine
end

