-- ==== Sys2Proof/Machine/Fetch.lean ====
section
/-! DEFINITION. Which agent moves next and with what: the head of the schedule (R33, R54, R153; log 5). -/

namespace Sys2Proof.Machine

/-- What the next step is: an instruction to run on a state, or a move that is no instruction. -/
inductive Fetched where
  | instr (i : Instr) (s : State)
  | other (o : Result)
deriving Repr

/-- Nothing is presented: the writer agent has its turn while `WQ` holds entries (duty H-D4 of R158), else the
block is idle with its state held (R163). -/
def idleTurn (s : State) : Result := writerTurn s

/-- The host waits (R73): it goes on waiting while the writer agent drains `WQ`, and the wait ends when
`BUSY = 0` or `PHASE = FATAL`. `s` still has the wait at the head of its schedule, `rest` is what follows it. -/
def waitTurn (s : State) (rest : List Stimulus) : Result :=
  if s.phase = .fatal ∨ s.busy = false then .next { s with sched := rest } else writerTurn s

/-- The next move. A presented strobe is decoded and taken off the schedule (R33: each command is consumed in
one core step). -/
def fetch (s : State) : Fetched :=
  match s.sched with
  | []                => .other (idleTurn s)
  | .present x :: r   => .instr (decode x) { s with sched := r }
  | .drain :: r       => .other (writerTurn { s with sched := r })
  | .wait :: r        => .other (waitTurn s r)
  | .answers a :: r   => .other (.next { s with sched := r, answers := a })
  | .reset :: r       => .other (.next ({ s with sched := r } : State).blockReset)

/-- The host presents a strobe next, before all else it was going to do. -/
def State.presentNext (s : State) (x : Strobe) : State := { s with sched := .present x :: s.sched }

end Sys2Proof.Machine
end

