-- ==== Sys2Proof/Machine/Step.lean ====
section
/-! DEFINITION. One step of the machine, and placing an instruction where the next step takes it from. -/

namespace Sys2Proof.Machine

/-- One step (R54: one agent at a time). -/
def step (s : State) : Host.Outcome State Fault Refusal :=
  match fetch s with
  | .instr i t => exec i t
  | .other o   => o

/-- The state in which the host presents the instruction of a table word next (log 5, log 10). -/
def State.withFetchWord (s : State) (nbits w : Nat) : State :=
  match strobeOfTableWord nbits w with
  | some x => s.presentNext x
  | none   => s

end Sys2Proof.Machine
end

