-- ==== Sys2Proof/Machine/Panel.lean ====
section
/-! DEFINITION. What the wire bytes mean on the panel (R129 to R131): functions for stating claims, read by no rule
of the block. -/

namespace Sys2Proof.Machine

/-- R129: an LED is lit when its wire bit is 0. -/
def ledLit (w : Byte) (i : Fin 8) : Bool := !w.getLsbD i

/-- The LED `P_PINMAP` connects to a bit of a payload byte of a device, if any (R10). -/
def ledOf (p : PinMap) (d : Device) (byte : Fin 2) (bit : Fin 8) : Option Nat :=
  match d, byte with
  | .a, 0 => p.a0[bit]
  | .a, 1 => p.a1[bit]
  | .b, 0 => p.b0[bit]
  | .b, 1 => p.b1[bit]

/-- The wire byte a known latch drives, byte 0 or byte 1. -/
def latchByte (l : Latch) (byte : Fin 2) : Option Byte :=
  match l with
  | .unknown => none
  | .holds w0 w1 => some (if byte = 0 then w0 else w1)

/-- Whether the line of a bit of a device drives its LED lit (R129), where the latch is known (R35). -/
def lineLit (l : Latch) (byte : Fin 2) (bit : Fin 8) : Option Bool :=
  (latchByte l byte).map (fun w => ledLit w bit)

/-- What a latch shows (R131): for each byte `unbcd(inv(w))` where it is defined. DESIGN CHOICE (log 24): R131 speaks of
the two values when both are defined, and yet of device B's hour alone; here each byte is read by itself, on either
device. -/
def displayReading (l : Latch) : Option Nat × Option Nat :=
  match l with
  | .unknown => (none, none)
  | .holds w0 w1 => (unbcd (inv w0), unbcd (inv w1))

end Sys2Proof.Machine
end

