-- ==== Sys2Proof/Machine/Assembler.lean ====
section
/-! DEFINITION. Program text as lines (R72 to R74): what the host presents for it. -/

namespace Sys2Proof.Machine

/-- The host answers written beside a command (R72): an open or write result not written is `ok`. -/
structure LineAnswers where
  now    : Option HostTime
  openA  : OpenResult
  openB  : OpenResult
  writes : List WriteResult
deriving DecidableEq, Repr, Inhabited

/-- One statement of a program text (R72, R73, R74). The mnemonics NOP, START, TICK and RESYNC are the command
words 0x00 to 0x03, and `CMD c` is the word `c`. -/
inductive Line where
  | command (w : Byte) (a : LineAnswers)
  | encode (n : Byte)
  | invert (b0 b1 : Byte)
  | wait
  | ticks (k : Nat)
  | nowait
deriving DecidableEq, Repr

/-- Why a program text means nothing. Safe: nothing is presented. -/
inductive AsmError where
  /-- NOWAIT that does not stand just after a command line (R74). -/
  | strayNowait
  /-- `TICKS k` with k = 0 (R73: k >= 1). -/
  | noTicks
  /-- A line (numbered from 1) that is no statement of R72 to R74. -/
  | badLine (n : Nat)
deriving DecidableEq, Repr

/-- No answers written beside a command. -/
def LineAnswers.none : LineAnswers := ⟨Option.none, .ok, .ok, []⟩

/-- The sheet of answers a command line settles: an unwritten write result is `OK`, and no command causes more
than four writes (R30, R72). An unwritten host time stays free. -/
def LineAnswers.sheet (a : LineAnswers) : Answers where
  now    := a.now.toList
  opens  := [a.openA, a.openB]
  writes := a.writes ++ List.replicate (4 - a.writes.length) .ok

/-- What the host does for a command line, without the implicit WAIT. NOP asks for no answer, so it leaves the
sheet of the command before it in force (R91, R72). -/
def presentCommand (w : Byte) (a : LineAnswers) : List Stimulus :=
  if decodeCmd w = .nop then [.present (.cmd w)] else [.answers a.sheet, .present (.cmd w)]

/-- `TICKS k` (R73): k copies of TICK, each followed by WAIT. -/
def presentTicks : Nat → List Stimulus
  | 0     => []
  | k + 1 => presentCommand 0x02#8 LineAnswers.none ++ (.wait :: presentTicks k)

/-- What the host does for a program text: an implicit WAIT after every command line (R74) unless NOWAIT follows.
DESIGN CHOICE (log 20): R74 leaves open how many turns the writer agent has between a command with NOWAIT and the
next one; here it has none, the interleaving of 95 P7. Another one is the same schedule with `.drain` moves put in
between. -/
def assemble : List Line → Except AsmError (List Stimulus)
  | [] => .ok []
  | .command w a :: .nowait :: rest =>
    match assemble rest with
    | .ok l    => .ok (presentCommand w a ++ l)
    | .error e => .error e
  | .command w a :: rest =>
    match assemble rest with
    | .ok l    => .ok (presentCommand w a ++ (.wait :: l))
    | .error e => .error e
  | .encode n :: rest =>
    match assemble rest with
    | .ok l    => .ok (.present (.codec n) :: l)
    | .error e => .error e
  | .invert b0 b1 :: rest =>
    match assemble rest with
    | .ok l    => .ok (.present (.inv b0 b1) :: l)
    | .error e => .error e
  | .wait :: rest =>
    match assemble rest with
    | .ok l    => .ok (.wait :: l)
    | .error e => .error e
  | .ticks 0 :: _ => .error .noTicks
  | .ticks (k + 1) :: rest =>
    match assemble rest with
    | .ok l    => .ok (presentTicks (k + 1) ++ l)
    | .error e => .error e
  | .nowait :: _ => .error .strayNowait

end Sys2Proof.Machine
end

