-- ==== Sys2Proof/Machine/Text.lean ====
section
/-! DEFINITION. Program text as characters (R72 to R74): one statement a line, the host answers in the comment of
the line that asks for them. Words of a comment that are no answer are only a comment. -/

namespace Sys2Proof.Machine

/-- The pieces of a list between the separators. -/
def splitAt {α : Type} [DecidableEq α] (sep : α) : List α → List (List α)
  | [] => [[]]
  | c :: cs =>
    if c = sep then [] :: splitAt sep cs
    else
      match splitAt sep cs with
      | []      => [[c]]
      | p :: ps => (c :: p) :: ps

/-- The words of a line; a comma is a word of its own. -/
def wordsOf (line : List Char) : List (List Char) :=
  let spaced := line.flatMap (fun c => if c = ',' then [' ', ',', ' '] else if c = '\t' then [' '] else [c])
  (splitAt ' ' spaced).filter (fun w => !w.isEmpty)

/-- A decimal digit. -/
def decDigit (c : Char) : Option Nat :=
  if 48 ≤ c.toNat ∧ c.toNat ≤ 57 then some (c.toNat - 48) else none

/-- A hexadecimal digit, either case. -/
def hexDigit (c : Char) : Option Nat :=
  if 48 ≤ c.toNat ∧ c.toNat ≤ 57 then some (c.toNat - 48)
  else if 65 ≤ c.toNat ∧ c.toNat ≤ 70 then some (c.toNat - 55)
  else if 97 ≤ c.toNat ∧ c.toNat ≤ 102 then some (c.toNat - 87)
  else none

/-- A nonempty row of digits read in a base. -/
def digitsValue (digit : Char → Option Nat) (base : Nat) (cs : List Char) : Option Nat :=
  if cs.isEmpty then none
  else cs.foldl (fun acc c =>
    match acc, digit c with
    | some v, some d => some (v * base + d)
    | _, _           => none) (some 0)

/-- A number: decimal, or `0x` and hexadecimal digits (R72). DESIGN CHOICE (log 23): R72 gives this form for ENCODE
only, with two hexadecimal digits; here it is the form of every operand, with one digit or more, in either case. -/
def numberOf : List Char → Option Nat
  | '0' :: 'x' :: cs => digitsValue hexDigit 16 cs
  | cs               => digitsValue decDigit 10 cs

/-- A number from 0 to 255, the operand of ENCODE, INVERT and CMD (R72), in the form of `numberOf` (log 23). -/
def byteOf (cs : List Char) : Option Byte :=
  match numberOf cs with
  | some v => if v ≤ 255 then some (BitVec.ofNat 8 v) else none
  | none   => none

/-- `HH:MM:SS` (R72), decimal, each part of one digit or more (log 23). -/
def timeOf (cs : List Char) : Option HostTime :=
  match splitAt ':' cs with
  | [h, m, s] =>
    match digitsValue decDigit 10 h, digitsValue decDigit 10 m, digitsValue decDigit 10 s with
    | some h, some m, some s => some ⟨h, m, s⟩
    | _, _, _                => none
  | _ => none

/-- `ok` or `error` (R72). -/
def openResultOf (w : String) : Option OpenResult :=
  if w = "ok" then some .ok else if w = "error" then some .error else none

/-- `OK`, `ERR`, `SHORT(0)` or `SHORT(1)` (R45, R72). -/
def writeResultOf (w : String) : Option WriteResult :=
  if w = "OK" then some .ok
  else if w = "ERR" then some .err
  else if w = "SHORT(0)" then some (.short 0)
  else if w = "SHORT(1)" then some (.short 1)
  else none

/-- The result of the k-th write, counted from 0, the ones before it `OK` where nothing is written. -/
def setWrite (r : WriteResult) : Nat → List WriteResult → List WriteResult
  | 0, []         => [r]
  | 0, _ :: rs    => r :: rs
  | k + 1, []     => .ok :: setWrite r k []
  | k + 1, q :: rs => q :: setWrite r k rs

/-- One word of a comment. The answers of `Open` follow the word `open` (R72). -/
def answerWord (acc : LineAnswers × Bool) (w : List Char) : LineAnswers × Bool :=
  match acc, splitAt '=' w with
  | (a, opens), [k] => (a, opens || String.ofList k == "open")
  | (a, opens), [k, v] =>
    if String.ofList k = "now" then
      match timeOf v with
      | some t => (⟨some t, a.openA, a.openB, a.writes⟩, opens)
      | none   => acc
    else if String.ofList k = "A" ∧ opens = true then
      match openResultOf (String.ofList v) with
      | some r => (⟨a.now, r, a.openB, a.writes⟩, opens)
      | none   => acc
    else if String.ofList k = "B" ∧ opens = true then
      match openResultOf (String.ofList v) with
      | some r => (⟨a.now, a.openA, r, a.writes⟩, opens)
      | none   => acc
    else
      match k with
      | 'w' :: digits =>
        match digitsValue decDigit 10 digits, writeResultOf (String.ofList v) with
        | some (n + 1), some r => (⟨a.now, a.openA, a.openB, setWrite r n a.writes⟩, opens)
        | _, _                 => acc
      | _ => acc
  | _, _ => acc

/-- The answers written in a comment (R72). -/
def answersOf (comment : List Char) : LineAnswers :=
  ((wordsOf comment).foldl answerWord (LineAnswers.none, false)).1

/-- The statement before the comment, and the comment. -/
def splitComment : List Char → List Char × List Char
  | []      => ([], [])
  | c :: cs => if c = ';' then ([], cs) else (c :: (splitComment cs).1, (splitComment cs).2)

/-- A statement of R72 to R74 by its words and the answers beside it. DESIGN CHOICE (log 23): R73 states no number form
for the k of TICKS; it is read as the other numbers are. -/
def statementOf (words : List (List Char)) (a : LineAnswers) : Option Line :=
  match words with
  | [w] =>
    if String.ofList w = "NOP" then some (.command 0x00#8 a)
    else if String.ofList w = "START" then some (.command 0x01#8 a)
    else if String.ofList w = "TICK" then some (.command 0x02#8 a)
    else if String.ofList w = "RESYNC" then some (.command 0x03#8 a)
    else if String.ofList w = "WAIT" then some .wait
    else if String.ofList w = "NOWAIT" then some .nowait
    else none
  | [w, x] =>
    if String.ofList w = "CMD" then (byteOf x).map (fun c => .command c a)
    else if String.ofList w = "ENCODE" then (byteOf x).map .encode
    else if String.ofList w = "TICKS" then (numberOf x).map .ticks
    else none
  | [w, x, [','], y] =>
    if String.ofList w = "INVERT" then
      match byteOf x, byteOf y with
      | some b0, some b1 => some (.invert b0 b1)
      | _, _             => none
    else none
  | _ => none

/-- The lines of a text, numbered from `n`; a line with no statement on it is skipped. -/
def linesOf (n : Nat) : List (List Char) → Except AsmError (List Line)
  | [] => .ok []
  | l :: ls =>
    let words := wordsOf (splitComment l).1
    match linesOf (n + 1) ls with
    | .error e => .error e
    | .ok rest =>
      if words.isEmpty then .ok rest
      else
        match statementOf words (answersOf (splitComment l).2) with
        | some x => .ok (x :: rest)
        | none   => .error (.badLine n)

/-- What the host does for a program text (R72 to R74). -/
def assembleText (text : List Char) : Except AsmError (List Stimulus) :=
  match linesOf 1 (splitAt '\n' text) with
  | .ok ls   => assemble ls
  | .error e => .error e

end Sys2Proof.Machine
end

