-- ==== Sys2Proof/Safety.lean ====
section
/-! DEFINITION. The terms in which claims are made: ranges and invariants, the end of a run (R180), the duties of
the host (R158), and what a log or a queue says of a device. -/

namespace Sys2Proof.Machine

/-- The range of R25 under `P_MIDNIGHT_FIX = fix`. -/
abbrev Clock.InRange (fix : Bool) (c : Clock) : Prop :=
  c.sec.toNat ≤ 59 ∧ c.min.toNat ≤ 59 ∧ c.hour.toNat ≤ 12 ∧ (fix = true → 1 ≤ c.hour.toNat)

/-- R28, last sentence, and R27: FATAL exactly when `FAULT = 1`, and a code exactly then. -/
abbrev State.StatusOk (s : State) : Prop :=
  (s.phase = .fatal ↔ s.fault = true) ∧ (s.fcode = .none ↔ s.fault = false)

/-- The clock registers hold `⊥` before START and values in range in phase RUN (R25, R26). -/
def State.clockOk (s : State) : Bool :=
  match s.clock with
  | none   => s.phase != .run
  | some c => s.phase != .off && decide (c.InRange s.cfg.midnightFix)

/-- A decimal value of a packed-BCD byte that is at most `k`. -/
def bcdAtMost (k : Nat) (q : Byte) : Bool :=
  match unbcd q with
  | some v => decide (v ≤ k)
  | none   => false

/-- The three payload kinds of R120. -/
def Payload.isKind (p : Payload) : Bool :=
  (p == initPayload p.dev) ||
    match p.dev with
    | .a => bcdAtMost 59 p.b0 && bcdAtMost 59 p.b1
    | .b => bcdAtMost 12 p.b0 && (p.b1 == filler)

/-- `WQ` holds at most 4 entries (R30), each of a kind of R120; in phase RUN and whenever an entry waits both
handles are open (R127); in phase OFF nothing waits and both are closed. -/
def State.queueOk (s : State) : Bool :=
  decide (s.wq.length ≤ 4) && s.wq.all Payload.isKind &&
  match s.phase with
  | .off   => s.wq.isEmpty && s.handleA == .closed && s.handleB == .closed
  | .run   => s.handleA == .opened && s.handleB == .opened
  | .fatal => s.wq.isEmpty || (s.handleA == .opened && s.handleB == .opened)

/-- What the checks of R153 leave of `WQ` under each code (95 section 2.9): OVERLAP is raised only with an entry
waiting, and the codes checked after it only with none; the queue stays as it was (R142, R143). -/
def State.fcodeOk (s : State) : Bool :=
  match s.fcode with
  | .overlap => !s.wq.isEmpty
  | .notStarted => s.wq.isEmpty
  | .restart => s.wq.isEmpty
  | .config => s.wq.isEmpty
  | .deviceCreate => s.wq.isEmpty
  | .hostRange => s.wq.isEmpty
  | .none => true
  | .illegalCmd => true
  | .bcdRange => true

/-- The invariant of the machine. -/
abbrev State.Inv (s : State) : Prop := s.StatusOk ∧ s.clockOk = true ∧ s.queueOk = true ∧ s.fcodeOk = true

/-- The wire bytes and result of the last write to a device in a log, as the latch they leave (R52). -/
def lastWritten (d : Device) : List Event → Option Latch
  | [] => none
  | .write t _ w0 w1 r :: es =>
    match lastWritten d es with
    | some l => some l
    | none   => if t = d then some (latchAfter w0 w1 r) else none
  | .open _ _ :: es => lastWritten d es
  | .read _ :: es   => lastWritten d es

/-- Where the log of this run has a write to a device, its latch is what the last one left (R52, R36). -/
abbrev State.LatchesFollowLog (s : State) : Prop :=
  ∀ d l, lastWritten d s.log = some l → s.latch d = l

/-- The last payload of a queue for a device. -/
def lastFor (d : Device) (q : List Payload) : Option Payload := (q.filter (fun p => p.dev = d)).getLast?

/-- The write a payload becomes on the bus: device and wire bytes, byte 0 first (R46, R123). -/
def Payload.wire (p : Payload) : Device × Byte × Byte := (p.dev, inv p.b0, inv p.b1)

/-- The writes of a log, in order. -/
def wireWrites : List Event → List (Device × Byte × Byte)
  | [] => []
  | .write t _ w0 w1 _ :: es => (t, w0, w1) :: wireWrites es
  | .open _ _ :: es => wireWrites es
  | .read _ :: es   => wireWrites es

/-- The runs of a schedule: a run begins at a reset (R170), so each reset ends the run before it and begins the next
one, and the first is what is left of the present run. DESIGN CHOICE (log 21). -/
def runsOf (sched : List Stimulus) : List (List Stimulus) := splitAt .reset sched

/-- Whether a move presents a command, on whichever port (R3). -/
def presentsCommand : Stimulus → Bool
  | .present _ => true
  | .drain => false
  | .wait => false
  | .answers _ => false
  | .reset => false

/-- The host presents no more commands in the present run (R180): waits, answers and turns of the writer agent may
be left, and so may a reset, behind which another run begins (log 21). -/
def State.presentsNoMore (s : State) : Bool := ((runsOf s.sched).headD []).all (fun m => !presentsCommand m)

/-- A run ends well (R180). -/
abbrev State.EndsWell (s : State) : Prop :=
  s.phase = .run ∧ s.fault = false ∧ s.wq = [] ∧ s.presentsNoMore = true

/-- A run ends badly (R180). -/
abbrev State.EndsBadly (s : State) : Prop := s.fault = true

/-- The command words of a run, in order. -/
def commandWords : List Stimulus → List Byte
  | [] => []
  | .present (.cmd w) :: r => w :: commandWords r
  | .present (.codec _) :: r => commandWords r
  | .present (.inv _ _) :: r => commandWords r
  | .drain :: r => commandWords r
  | .wait :: r => commandWords r
  | .answers _ :: r => commandWords r
  | .reset :: r => commandWords r

/-- Duty H-D1 of R158 on one run: START is the first command word and there is no other (log 15). -/
def startsOnce (run : List Stimulus) : Bool :=
  match commandWords run with
  | []     => false
  | w :: r => w == 0x01#8 && !r.contains 0x01#8

/-- Duty H-D1 of R158, read on a schedule that begins at a reset. DESIGN CHOICE (log 21): the duty counts anew after
each reset of the block, so every run of the schedule must keep it. -/
def keepsStartDuty (sched : List Stimulus) : Bool := (runsOf sched).all startsOnce

/-- Whether a word is START, TICK or RESYNC, the commands of R147. -/
def isWorkWord (w : Byte) : Bool := w == 0x01#8 || w == 0x02#8 || w == 0x03#8

/-- Duty H-D2 of R158 at this step: no START, TICK or RESYNC is presented while `BUSY = 1`. -/
def State.keepsOverlapDuty (s : State) : Bool :=
  match s.sched with
  | .present (.cmd w) :: _ => !(isWorkWord w && s.busy)
  | _ => true

end Sys2Proof.Machine
end

