-- ==== Sys2Proof/Certificates/Slice0/Obligations.lean ====
section
/-! DEFINITION. The statements for the provers, in the terms of the machine and of Safety.lean. -/

open Sys2Proof Sys2Proof.Machine

/-! ### Encoding -/

/-- R61 to R71: nothing of an instruction is lost by its words. -/
def Obligations.DecodeInvertsEncode : Prop :=
  ∀ i : Instr, i.wf = true → decode (encode i) = i

/-- R65, R67, R70: each strobe has one meaning, so the words of what was decoded are the strobe again, and what is
decoded is always well formed. -/
def Obligations.EncodeInvertsDecode : Prop :=
  ∀ x : Strobe, encode (decode x) = x ∧ (decode x).wf = true

/-- R65, formula for formula. -/
def Obligations.CommandDecodeFormula : Prop :=
  ∀ c : Byte, decode (.cmd c) =
    if (c.toNat / 8) ≠ 0 then .illegal (BitVec.ofNat 5 (c.toNat / 8)) (BitVec.ofNat 3 (c.toNat % 8))
    else if c.toNat % 8 = 0 then .nop
    else if c.toNat % 8 = 1 then .start
    else if c.toNat % 8 = 2 then .tick
    else if c.toNat % 8 = 3 then .resync
    else .illegal (BitVec.ofNat 5 (c.toNat / 8)) (BitVec.ofNat 3 (c.toNat % 8))

/-- A few words of R62, R63, R66 and R69. -/
def Obligations.SampleWordsDecode : Prop :=
  decode (.cmd 0b00000000#8) = .nop ∧ decode (.cmd 0b00000001#8) = .start ∧
  decode (.cmd 0b00000010#8) = .tick ∧ decode (.cmd 0b00000011#8) = .resync ∧
  decode (.cmd 0b00000100#8) = .illegal 0b00000#5 0b100#3 ∧
  decode (.cmd 0b00001010#8) = .illegal 0b00001#5 0b010#3 ∧
  decodeBytes .codec [0x3B#8] = .ok (.encode 0x3B#8, []) ∧
  decodeBytes .inv [0x59#8, 0x00#8] = .ok (.invert 0x59#8 0x00#8, []) ∧
  decodeBytes .inv [0x59#8] = .error (.tooFewBytes .inv)

/-! ### Steps -/

/-- R33, R71: a presented strobe is decoded and run as one step, and is taken off the schedule. The schedule is
the model's own (log 5). -/
def Obligations.StepRunsPresentedInstruction : Prop :=
  ∀ (s : State) (x : Strobe) (r : List Stimulus), s.sched = .present x :: r →
    step s = exec (decode x) { s with sched := r }

/-- R127, R153, R163, R73: the moves that are no instruction, and what the writer's turn, and so an idle step, does with
nothing queued. That a turn of a writer agent that is not enabled passes with nothing done, and the schedule, are the
model's own (log 5). -/
def Obligations.StepOfOtherMoves : Prop :=
  ∀ (s : State),
    (s.sched = [] → step s = writerTurn s) ∧
    (s.phase ≠ .fatal → s.wq = [] → writerTurn s = .next s) ∧
    (s.sched = [] → s.phase ≠ .fatal → s.wq = [] → step s = .next s) ∧
    (∀ r, s.sched = .drain :: r → step s = writerTurn { s with sched := r }) ∧
    (∀ r, s.sched = .wait :: r → s.phase ≠ .fatal → s.wq ≠ [] → step s = writerTurn s) ∧
    (∀ r, s.sched = .wait :: r → (s.phase = .fatal ∨ s.wq = []) → step s = .next { s with sched := r }) ∧
    (∀ a r, s.sched = .answers a :: r → step s = .next { s with sched := r, answers := a })

/-! ### Reset -/

/-- R38: the state at power-on reset. -/
def Obligations.ResetLeavesTheStatedState : Prop :=
  State.reset.clock = none ∧ State.reset.status = 0x00#8 ∧
  State.reset.phase = .off ∧ State.reset.busy = false ∧ State.reset.fault = false ∧ State.reset.fcode = .none ∧
  State.reset.wq = [] ∧ State.reset.handleA = .closed ∧ State.reset.handleB = .closed ∧
  State.reset.latchA = .unknown ∧ State.reset.latchB = .unknown ∧ State.reset.log = []

/-- R10: the configuration the model has at reset keeps the limits of the table, whatever its OPEN values are, and has
the two defaults. The configuration is no state (R20); that State.reset carries one, with these values, is the model's
choice (log 3). -/
def Obligations.ResetConfigurationKeepsLimits : Prop :=
  State.reset.cfg.Wf ∧ State.reset.cfg.midnightFix = true ∧ State.reset.cfg.bcdOor = .fault

/-- R170: what a reset of the block alone does. That the host asks for it by a stimulus, and that the model's own
fields `outs`, `sched` and `answers` are treated so, is the model's choice (log 18). -/
def Obligations.BlockResetKeepsOnlyTheLatches : Prop :=
  ∀ (s : State) (r : List Stimulus), s.sched = .reset :: r →
    ∃ t, step s = .next t ∧
      t.clock = none ∧ t.status = 0x00#8 ∧ t.wq = [] ∧ t.handleA = .closed ∧ t.handleB = .closed ∧
      t.latchA = s.latchA ∧ t.latchB = s.latchB ∧ t.log = [] ∧ t.cfg = s.cfg ∧ t.sched = r

/-! ### Faults -/

/-- R142 and R17: what raising a fault leaves of the step begun in `s0`. -/
def Obligations.RaiseRecordsFirstCode : Prop :=
  ∀ (s0 s : State) (code : FCode),
    (s0.raiseAt code s).phase = .fatal ∧ (s0.raiseAt code s).fault = true ∧
    (s0.raiseAt code s).fcode = (if s0.fault = false then code else s0.fcode) ∧
    (s0.raiseAt code s).clock = s0.clock ∧ (s0.raiseAt code s).wq = s0.wq ∧
    (s0.raiseAt code s).handleA = s0.handleA ∧ (s0.raiseAt code s).handleB = s0.handleB ∧
    (s0.raiseAt code s).latchA = s0.latchA ∧ (s0.raiseAt code s).latchB = s0.latchB ∧
    (s0.raiseAt code s).outs = s0.outs ∧ (s0.raiseAt code s).cfg = s0.cfg ∧
    (s0.raiseAt code s).log = s.log

/-- R143: in phase FATAL no agent has a step, so nothing is consumed, produced or written, and it is no good end of
a run. That the missing step is the outcome fault halted is deduced (log 6); that a machine with an empty schedule
gives the writer agent its turn, and so halts too, is the model's choice (log 5). -/
def Obligations.FatalHaltsEveryAgent : Prop :=
  ∀ s : State, s.phase = .fatal →
    (∀ i, exec i s = .fault .halted) ∧
    writerTurn s = .fault .halted ∧
    (∀ x r, s.sched = .present x :: r → step s = .fault .halted) ∧
    (∀ r, s.sched = .drain :: r → step s = .fault .halted) ∧
    (s.sched = [] → step s = .fault .halted) ∧
    ¬ s.EndsWell

/-- R144: a reserved word raises ILLEGAL_CMD in any phase but FATAL and whatever BUSY is; nothing else changes. -/
def Obligations.ReservedWordRaisesIllegal : Prop :=
  ∀ s : State, s.phase ≠ .fatal →
    (∀ rsv op, exec (.illegal rsv op) s =
      .next { s with phase := .fatal, fault := true, fcode := if s.fault then s.fcode else .illegalCmd }) ∧
    (∀ (w : Byte) (r : List Stimulus), 4 ≤ w.toNat → s.sched = .present (.cmd w) :: r →
      step s = .next { s with
        sched := r, phase := .fatal, fault := true, fcode := if s.fault then s.fcode else .illegalCmd })

/-- R147: START, TICK and RESYNC raise OVERLAP while BUSY = 1; NOP does not. -/
def Obligations.CommandWhileBusyOverlaps : Prop :=
  ∀ s : State, s.phase ≠ .fatal → s.busy = true →
    (∀ i, i = .start ∨ i = .tick ∨ i = .resync →
      exec i s = .next { s with
        phase := .fatal, fault := true, fcode := if s.fault then s.fcode else .overlap }) ∧
    exec .nop s = .next s

/-- R145: TICK and RESYNC in phase OFF. -/
def Obligations.TickOrResyncBeforeStart : Prop :=
  ∀ (s : State) (i : Instr), i = .tick ∨ i = .resync → s.phase = .off → s.wq = [] →
    exec i s = .next { s with
      phase := .fatal, fault := true, fcode := if s.fault then s.fcode else .notStarted }

/-- R146: START in phase RUN. -/
def Obligations.StartWhileRunningRestarts : Prop :=
  ∀ s : State, s.phase = .run → s.wq = [] →
    exec .start s = .next { s with
      phase := .fatal, fault := true, fcode := if s.fault then s.fcode else .restart }

/-- R148: START with equal addresses, before any Open. -/
def Obligations.StartWithEqualAddresses : Prop :=
  ∀ s : State, s.phase = .off → s.wq = [] → s.cfg.addrA = s.cfg.addrB →
    exec .start s = .next { s with
      phase := .fatal, fault := true, fcode := if s.fault then s.fcode else .config }

/-- R149: START when a device cannot be opened. Device B is not tried after A failed (R92). Both handles are as
before, nothing is queued, the events stay in LOG. -/
def Obligations.StartWithoutADevice : Prop :=
  ∀ s : State, s.phase = .off → s.wq = [] → s.fault = false → s.cfg.addrA ≠ s.cfg.addrB →
    (s.nextOpen .a = .error →
      ∃ t, exec .start s = .next t ∧ t.phase = .fatal ∧ t.fault = true ∧ t.fcode = .deviceCreate ∧
        t.clock = s.clock ∧ t.wq = [] ∧ t.handleA = s.handleA ∧ t.handleB = s.handleB ∧
        t.latchA = s.latchA ∧ t.latchB = s.latchB ∧ t.log = s.log ++ [.open .a .error]) ∧
    (s.nextOpen .a = .ok → (s.afterOpen .a).nextOpen .b = .error →
      ∃ t, exec .start s = .next t ∧ t.phase = .fatal ∧ t.fault = true ∧ t.fcode = .deviceCreate ∧
        t.clock = s.clock ∧ t.wq = [] ∧ t.handleA = s.handleA ∧ t.handleB = s.handleB ∧
        t.latchA = s.latchA ∧ t.latchB = s.latchB ∧ t.log = s.log ++ [.open .a .ok, .open .b .error])

/-- R150: an answer of the host clock outside its contract undoes the command, whichever command asked. -/
def Obligations.HostRangeUndoesTheCommand : Prop :=
  ∀ s : State, s.wq = [] → s.fault = false →
    (∀ c : Clock, s.phase = .run → s.clock = some c → c.sec = 59#8 → c.min = 59#8 → c.hour = 12#8 →
      ¬ (s.nextNow.h24 ≤ 23 ∧ s.nextNow.m ≤ 59 ∧ s.nextNow.s ≤ 59) →
      ∃ t, exec .tick s = .next t ∧ t.phase = .fatal ∧ t.fault = true ∧ t.fcode = .hostRange ∧
        t.clock = some c ∧ t.wq = [] ∧ t.handleA = s.handleA ∧ t.handleB = s.handleB ∧
        t.log = s.log ++ [.read s.nextNow]) ∧
    (s.phase = .run → ¬ (s.nextNow.h24 ≤ 23 ∧ s.nextNow.m ≤ 59 ∧ s.nextNow.s ≤ 59) →
      ∃ t, exec .resync s = .next t ∧ t.phase = .fatal ∧ t.fault = true ∧ t.fcode = .hostRange ∧
        t.clock = s.clock ∧ t.wq = [] ∧ t.handleA = s.handleA ∧ t.handleB = s.handleB ∧
        t.log = s.log ++ [.read s.nextNow]) ∧
    (∀ u : State, s.phase = .off → s.cfg.addrA ≠ s.cfg.addrB →
      s.nextOpen .a = .ok → (s.afterOpen .a).nextOpen .b = .ok → (s.afterOpen .a).afterOpen .b = u →
      ¬ (u.nextNow.h24 ≤ 23 ∧ u.nextNow.m ≤ 59 ∧ u.nextNow.s ≤ 59) →
      ∃ t, exec .start s = .next t ∧ t.phase = .fatal ∧ t.fault = true ∧ t.fcode = .hostRange ∧
        t.clock = s.clock ∧ t.wq = [] ∧ t.handleA = s.handleA ∧ t.handleB = s.handleB ∧
        t.log = s.log ++ [.open .a .ok, .open .b .ok, .read u.nextNow])

/-- R141: the codes, all below 0x9, and for each the instructions and the cause that raise it. For HOST_RANGE the cause
is the answer this step read, the last event it appended to LOG, and a TICK raises it in case T4 only. -/
def Obligations.FaultCodesHaveTheirCauses : Prop :=
  (fcodeBits .none = 0x0#4 ∧ fcodeBits .illegalCmd = 0x1#4 ∧ fcodeBits .notStarted = 0x2#4 ∧
    fcodeBits .restart = 0x3#4 ∧ fcodeBits .overlap = 0x4#4 ∧ fcodeBits .config = 0x5#4 ∧
    fcodeBits .deviceCreate = 0x6#4 ∧ fcodeBits .hostRange = 0x7#4 ∧ fcodeBits .bcdRange = 0x8#4 ∧
    ∀ f, (fcodeBits f).toNat < 0x9) ∧
  ∀ (i : Instr) (s t : State), exec i s = .next t → s.fault = false → t.fault = true →
    (t.fcode = .illegalCmd ∧ ∃ rsv op, i = .illegal rsv op) ∨
    (t.fcode = .notStarted ∧ (i = .tick ∨ i = .resync) ∧ s.phase = .off) ∨
    (t.fcode = .restart ∧ i = .start ∧ s.phase = .run) ∨
    (t.fcode = .overlap ∧ (i = .start ∨ i = .tick ∨ i = .resync) ∧ s.busy = true) ∨
    (t.fcode = .config ∧ i = .start ∧ s.cfg.addrA = s.cfg.addrB) ∨
    (t.fcode = .deviceCreate ∧ i = .start ∧
      (s.nextOpen .a = .error ∨ s.nextOpen .a = .ok ∧ (s.afterOpen .a).nextOpen .b = .error)) ∨
    (t.fcode = .hostRange ∧ ∃ now : HostTime, ¬ (now.h24 ≤ 23 ∧ now.m ≤ 59 ∧ now.s ≤ 59) ∧
      ((i = .start ∧ t.log = s.log ++ [.open .a .ok, .open .b .ok, .read now]) ∨
       (i = .resync ∧ t.log = s.log ++ [.read now]) ∨
       (i = .tick ∧ t.log = s.log ++ [.read now] ∧
         ∃ c, s.clock = some c ∧ (c.InRange s.cfg.midnightFix → c = ⟨59#8, 59#8, 12#8⟩)))) ∨
    (t.fcode = .bcdRange ∧ s.cfg.bcdOor = .fault ∧ ∃ n, i = .encode n ∧ 99 < n.toNat)

/-! ### Commands -/

/-- R91: NOP, also while busy and in phase OFF; in phase FATAL it has no step, which is the outcome fault halted by
deduction (log 6). -/
def Obligations.NopChangesNothing : Prop :=
  ∀ s : State, (s.phase ≠ .fatal → exec .nop s = .next s) ∧ (s.phase = .fatal → exec .nop s = .fault .halted)

/-- R92, R103 case ST: START with both devices opened and a host time in its contract. `open` is called with P_BUS and
the address of A, then of B (R44); the record of these calls is the model's own (log 22). -/
def Obligations.StartCompletes : Prop :=
  ∀ (s u : State) (now : HostTime), s.phase = .off → s.wq = [] → s.cfg.addrA ≠ s.cfg.addrB →
    s.nextOpen .a = .ok → (s.afterOpen .a).nextOpen .b = .ok → (s.afterOpen .a).afterOpen .b = u →
    u.nextNow = now → now.h24 ≤ 23 → now.m ≤ 59 → now.s ≤ 59 →
    exec .start s = .next { s with
      clock := some ⟨BitVec.ofNat 8 now.s, BitVec.ofNat 8 now.m,
        BitVec.ofNat 8 (to12 s.cfg.midnightFix now.h24)⟩
      phase := .run
      wq := [⟨.a, 0xFF#8, 0xFF#8⟩, ⟨.b, 0xFF#8, 0xFF#8⟩, ⟨.a, bcd now.s, bcd now.m⟩,
        ⟨.b, bcd (to12 s.cfg.midnightFix now.h24), 0xFF#8⟩]
      handleA := .opened
      handleB := .opened
      log := s.log ++ [.open .a .ok, .open .b .ok, .read now]
      openCalls := s.openCalls ++ [(s.cfg.bus, s.cfg.addrA), (s.cfg.bus, s.cfg.addrB)]
      answers := u.afterNow.answers
      draws := u.afterNow.draws }

/-- R93, R103 case T1. -/
def Obligations.TickWithoutCarry : Prop :=
  ∀ (s : State) (c : Clock), s.phase = .run → s.wq = [] → s.clock = some c →
    c.sec.toNat ≤ 58 → c.min.toNat ≤ 59 →
    exec .tick s = .next { s with
      clock := some ⟨BitVec.ofNat 8 (c.sec.toNat + 1), c.min, c.hour⟩
      wq := [⟨.a, bcd (c.sec.toNat + 1), bcd c.min.toNat⟩] }

/-- R94, R103 case T2. -/
def Obligations.TickWithMinuteIncrement : Prop :=
  ∀ (s : State) (c : Clock), s.phase = .run → s.wq = [] → s.clock = some c →
    c.sec.toNat = 59 → c.min.toNat ≤ 58 →
    exec .tick s = .next { s with
      clock := some ⟨0#8, BitVec.ofNat 8 (c.min.toNat + 1), c.hour⟩
      wq := [⟨.a, 0x00#8, bcd (c.min.toNat + 1)⟩] }

/-- R97, R103 case T3; the hour may be 0 (R108). Device B is written before device A. -/
def Obligations.TickWithHourIncrement : Prop :=
  ∀ (s : State) (c : Clock), s.phase = .run → s.wq = [] → s.clock = some c →
    c.sec.toNat = 59 → c.min.toNat = 59 → c.hour.toNat ≤ 11 →
    exec .tick s = .next { s with
      clock := some ⟨0#8, 0#8, BitVec.ofNat 8 (c.hour.toNat + 1)⟩
      wq := [⟨.b, bcd (c.hour.toNat + 1), 0xFF#8⟩, ⟨.a, 0x00#8, 0x00#8⟩] }

/-- R97, R103 case T4: the wrap of the hour takes the time of the host clock and emits each payload twice. -/
def Obligations.TickWithHourWrap : Prop :=
  ∀ (s : State) (c : Clock) (now : HostTime), s.phase = .run → s.wq = [] → s.clock = some c →
    c.sec.toNat = 59 → c.min.toNat = 59 → c.hour.toNat = 12 →
    s.nextNow = now → now.h24 ≤ 23 → now.m ≤ 59 → now.s ≤ 59 →
    exec .tick s = .next { s with
      clock := some ⟨BitVec.ofNat 8 now.s, BitVec.ofNat 8 now.m,
        BitVec.ofNat 8 (to12 s.cfg.midnightFix now.h24)⟩
      wq := [⟨.a, bcd now.s, bcd now.m⟩, ⟨.b, bcd (to12 s.cfg.midnightFix now.h24), 0xFF#8⟩,
        ⟨.b, bcd (to12 s.cfg.midnightFix now.h24), 0xFF#8⟩, ⟨.a, bcd now.s, bcd now.m⟩]
      log := s.log ++ [.read now]
      answers := s.afterNow.answers
      draws := s.afterNow.draws }

/-- R14, R26, R83, R127: where TICK and the writer agent stop with a fault of the model, all in states no run reaches
(log 9; NoModelFaultFromInvariant). -/
def Obligations.ModelFaultsStopByName : Prop :=
  ∀ s : State, s.phase ≠ .fatal →
    (s.phase = .run → s.wq = [] → s.clock = none → exec .tick s = .fault .noValue) ∧
    (∀ c : Clock, s.phase = .run → s.wq = [] → s.clock = some c → c.sec.toNat ≤ 58 → 99 < c.min.toNat →
      exec .tick s = .fault .bcdAbove99) ∧
    (∀ p q, s.wq = p :: q → s.handle p.dev = .closed → writerTurn s = .fault .handleClosed)

/-- R95, R103 case RS. -/
def Obligations.ResyncCompletes : Prop :=
  ∀ (s : State) (now : HostTime), s.phase = .run → s.wq = [] →
    s.nextNow = now → now.h24 ≤ 23 → now.m ≤ 59 → now.s ≤ 59 →
    exec .resync s = .next { s with
      clock := some ⟨BitVec.ofNat 8 now.s, BitVec.ofNat 8 now.m,
        BitVec.ofNat 8 (to12 s.cfg.midnightFix now.h24)⟩
      wq := [⟨.a, bcd now.s, bcd now.m⟩, ⟨.b, bcd (to12 s.cfg.midnightFix now.h24), 0xFF#8⟩]
      log := s.log ++ [.read now]
      answers := s.afterNow.answers
      draws := s.afterNow.draws }

/-- R80, R82, R83: ENCODE in every case, also while busy and in phase OFF. The history `outs` that shows the outputs
is the model's own (log 7); that no output is produced under the policy FAULT is deduced (log 8), and so is that the
missing step in phase FATAL (R143) is the outcome fault halted (log 6). -/
def Obligations.EncodeFollowsItsRule : Prop :=
  ∀ (n : Byte) (s : State),
    (s.phase = .fatal → exec (.encode n) s = .fault .halted) ∧
    (s.phase ≠ .fatal → n.toNat ≤ 99 →
      exec (.encode n) s = .next { s with
        outs := s.outs ++ [.codec (BitVec.ofNat 8 (n.toNat / 10 * 16 + n.toNat % 10)) false] }) ∧
    (s.phase ≠ .fatal → 99 < n.toNat → s.cfg.bcdOor = .fault →
      exec (.encode n) s = .next { s with
        phase := .fatal, fault := true, fcode := if s.fault then s.fcode else .bcdRange }) ∧
    (s.phase ≠ .fatal → 99 < n.toNat → s.cfg.bcdOor = .mask →
      exec (.encode n) s = .next { s with
        outs := s.outs ++ [.codec (BitVec.ofNat 8 (n.toNat / 10 % 16 * 16 + n.toNat % 10)) true] })

/-- R122: INVERT. It has no step in phase FATAL (R143), which is the outcome fault halted by deduction (log 6). The
history `outs` that shows the outputs is the model's own (log 7). -/
def Obligations.InvertFollowsItsRule : Prop :=
  ∀ (in0 in1 : Byte) (s : State),
    (s.phase = .fatal → exec (.invert in0 in1) s = .fault .halted) ∧
    (s.phase ≠ .fatal → exec (.invert in0 in1) s = .next { s with
      outs := s.outs ++ [.inv (in0 ^^^ 0xFF#8) (in1 ^^^ 0xFF#8)] })

/-! ### Functions -/

/-- R85: the round trip of the codec, and R87, which the spec derives from it, in terms of `unbcd`. -/
def Obligations.BcdRoundTrip : Prop :=
  ∀ n : Nat, n ≤ 99 → 10 * ((bcd n).toNat / 16) + (bcd n).toNat % 16 = n ∧ unbcd (bcd n) = some n

/-- R86: the digits of an in-range result, and what the spec derives there: its injectivity, and the bits the clock
ranges leave clear. -/
def Obligations.BcdDigits : Prop :=
  (∀ n : Nat, n ≤ 99 → (bcd n).toNat / 16 = n / 10 ∧ n / 10 ≤ 9 ∧ (bcd n).toNat % 16 = n % 10 ∧ n % 10 ≤ 9) ∧
  (∀ m n : Nat, m ≤ 99 → n ≤ 99 → bcd m = bcd n → m = n) ∧
  (∀ n : Nat, n ≤ 59 → (bcd n).toNat / 16 ≤ 5) ∧
  (∀ n : Nat, 1 ≤ n → n ≤ 12 → (bcd n).toNat = (if n ≤ 9 then n else n + 6) ∧ (bcd n).toNat / 32 = 0)

/-- R98: the table of `to12`. -/
def Obligations.TwelveHourConversion : Prop :=
  to12 true 0 = 12 ∧ to12 false 0 = 0 ∧
  ∀ fix h, (1 ≤ h → h ≤ 11 → to12 fix h = h) ∧ to12 fix 12 = 12 ∧ (13 ≤ h → h ≤ 23 → to12 fix h = h - 12)

/-- R123: every bit is complemented, twice is nothing, and the writer does it to both bytes of every payload, the
filler's included (C1). -/
def Obligations.InverterComplementsEveryBit : Prop :=
  (∀ (x : Byte) (i : Nat), i < 8 → (inv x).getLsbD i = !x.getLsbD i) ∧
  (∀ x : Byte, inv x = x ^^^ 0xFF#8 ∧ inv (inv x) = x) ∧
  (∀ (s : State) (p : Payload), (s.sendPayload p).log =
    s.log ++ [.write p.dev (addrOf s.cfg p.dev) (p.b0 ^^^ 0xFF#8) (p.b1 ^^^ 0xFF#8) s.nextWrite])

/-- R27: the layout of STATUS. -/
def Obligations.StatusLayout : Prop :=
  ∀ s : State,
    s.status.toNat % 4 = (match s.phase with | .off => 0 | .run => 1 | .fatal => 2) ∧
    (s.status.getLsbD 2 = true ↔ s.wq ≠ []) ∧
    s.status.getLsbD 3 = s.fault ∧
    s.status.toNat / 16 = (fcodeBits s.fcode).toNat

/-- R154: the exit status of the two startup faults and of no other. -/
def Obligations.ExitStatusOfStartupFaults : Prop :=
  ∀ s : State,
    (s.fcode = .config → s.exitStatus = some s.cfg.exitConfig) ∧
    (s.fcode = .deviceCreate → s.exitStatus = some s.cfg.exitDevice) ∧
    (s.fcode ≠ .config → s.fcode ≠ .deviceCreate → s.exitStatus = none)

/-- R131: what a latch that holds the inverted payload of a time in range shows. That the hour is read though the
filler beside it has no value follows the reading of each byte by itself (log 24). -/
def Obligations.LatchShowsTheTime : Prop :=
  ∀ (fix : Bool) (c : Clock), c.InRange fix →
    displayReading (.holds (inv (smPayload c).b0) (inv (smPayload c).b1)) =
      (some c.sec.toNat, some c.min.toNat) ∧
    displayReading (.holds (inv (hPayload c).b0) (inv (hPayload c).b1)) = (some c.hour.toNat, none)

/-- R130: bits of the wire bytes that a time in range fixes, and the lines that are dark or lit by them (R129). -/
def Obligations.PanelLinesFixedByRange : Prop :=
  ∀ (fix : Bool) (c : Clock), c.InRange fix →
    ledLit (inv (smPayload c).b0) 7 = false ∧ ledLit (inv (smPayload c).b1) 7 = false ∧
    ledLit (inv (hPayload c).b0) 5 = false ∧ ledLit (inv (hPayload c).b0) 6 = false ∧
    ledLit (inv (hPayload c).b0) 7 = false ∧
    (inv (hPayload c).b1 = 0x00#8 ∧ ∀ i, ledLit (inv (hPayload c).b1) i = true) ∧
    (∀ d i, ledLit (inv (initPayload d).b0) i = true ∧ ledLit (inv (initPayload d).b1) i = true) ∧
    (c.sec = 0#8 → c.min = 0#8 → (smPayload c).wire = (.a, 0xFF#8, 0xFF#8))

/-! ### The host's primitives and the writer agent -/

/-- R42, R44, R45: each question to the host appends its event to LOG, `Open` calls the transport with P_BUS and the
device's address, unchanged (R10, R41), and binds the handle on `ok` only. The record of the calls is the model's own
(log 22). -/
def Obligations.HostAnswersAreLogged : Prop :=
  ∀ (s : State) (d : Device) (w0 w1 : Byte),
    s.afterNow.log = s.log ++ [.read s.nextNow] ∧
    (s.afterOpen d).log = s.log ++ [.open d (s.nextOpen d)] ∧
    (s.afterOpen d).openCalls =
      s.openCalls ++ [(s.cfg.bus, match d with | .a => s.cfg.addrA | .b => s.cfg.addrB)] ∧
    s.afterNow.openCalls = s.openCalls ∧ (s.busWrite d w0 w1).openCalls = s.openCalls ∧
    (s.busWrite d w0 w1).log = s.log ++ [.write d (addrOf s.cfg d) w0 w1 s.nextWrite] ∧
    (s.nextOpen d = .ok → (s.afterOpen d).handle d = .opened) ∧
    (s.nextOpen d = .error → (s.afterOpen d).handle d = s.handle d) ∧
    (∀ e, e ≠ d → (s.afterOpen d).handle e = s.handle e)

/-- R52: the latch of the device after a write, and of the other device. -/
def Obligations.LatchFollowsWriteResult : Prop :=
  ∀ (s : State) (d : Device) (w0 w1 : Byte),
    (s.nextWrite = .ok → (s.busWrite d w0 w1).latch d = .holds w0 w1) ∧
    (s.nextWrite ≠ .ok → (s.busWrite d w0 w1).latch d = .unknown) ∧
    (∀ e, e ≠ d → (s.busWrite d w0 w1).latch e = s.latch e)

/-- R127: the writer agent's step on the head of WQ, and nothing else changes; it has no step in phase FATAL, which is
the outcome fault halted by deduction (log 6). What its turn does with WQ empty is in StepOfOtherMoves. -/
def Obligations.WriterSendsTheHead : Prop :=
  ∀ (s : State) (p : Payload) (q : List Payload), s.wq = p :: q →
    (s.phase = .fatal → writerTurn s = .fault .halted) ∧
    (s.phase ≠ .fatal → s.handle p.dev = .opened →
      ∃ t, writerTurn s = .next t ∧ t.wq = q ∧
        t.log = s.log ++ [.write p.dev (addrOf s.cfg p.dev) (inv p.b0) (inv p.b1) s.nextWrite] ∧
        t.latch p.dev = latchAfter (inv p.b0) (inv p.b1) s.nextWrite ∧
        (∀ e, e ≠ p.dev → t.latch e = s.latch e) ∧
        t.clock = s.clock ∧ t.phase = s.phase ∧ t.fault = s.fault ∧ t.fcode = s.fcode ∧
        t.handleA = s.handleA ∧ t.handleB = s.handleB ∧ t.cfg = s.cfg ∧ t.outs = s.outs ∧
        t.openCalls = s.openCalls ∧ t.sched = s.sched)

/-- R128: whatever the transport answers, the block is the same after the writer's step. -/
def Obligations.WriteResultLeavesTheBlock : Prop :=
  ∀ (s t : State) (a : Answers), writerTurn s = .next t →
    ∃ t', writerTurn { s with answers := a } = .next t' ∧
      t'.clock = t.clock ∧ t'.status = t.status ∧ t'.wq = t.wq ∧
      t'.handleA = t.handleA ∧ t'.handleB = t.handleB ∧
      t.clock = s.clock ∧ t.phase = s.phase ∧ t.fault = s.fault ∧ t.fcode = s.fcode ∧ t.wq = s.wq.tail ∧
      (∀ p q, s.wq = p :: q → t.log.getLast? =
        some (.write p.dev (addrOf s.cfg p.dev) (inv p.b0) (inv p.b1) s.nextWrite))

/-! ### Frames -/

/-- What NOP, ENCODE, INVERT and a reserved word leave unchanged: all but the outputs and the three stored fields
of STATUS, and of those NOP and INVERT leave STATUS, NOP and a reserved word the outputs. The history `outs` of the
outputs, which only grows, is the model's own (log 7). -/
def Obligations.PortOperationsFrame : Prop :=
  ∀ (i : Instr) (s t : State), exec i s = .next t →
    (i = .nop ∨ (∃ n, i = .encode n) ∨ (∃ x y, i = .invert x y) ∨ (∃ r o, i = .illegal r o)) →
    t = { s with phase := t.phase, fault := t.fault, fcode := t.fcode, outs := t.outs } ∧
    s.outs <+: t.outs ∧
    ((i = .nop ∨ ∃ x y, i = .invert x y) → t.phase = s.phase ∧ t.fault = s.fault ∧ t.fcode = s.fcode) ∧
    ((i = .nop ∨ ∃ r o, i = .illegal r o) → t.outs = s.outs)

/-- What START, TICK and RESYNC leave unchanged: latches, configuration, outputs and schedule always, the handles
and the calls of `open` (log 22) but for START, everything already queued or logged, and in a command that raised a fault the clock registers, the
queue and the handles too (R17). -/
def Obligations.ClockCommandsFrame : Prop :=
  ∀ (i : Instr) (s t : State), exec i s = .next t → (i = .start ∨ i = .tick ∨ i = .resync) →
    t.latchA = s.latchA ∧ t.latchB = s.latchB ∧ t.cfg = s.cfg ∧ t.outs = s.outs ∧ t.sched = s.sched ∧
    (i ≠ .start → t.handleA = s.handleA ∧ t.handleB = s.handleB ∧ t.openCalls = s.openCalls) ∧
    s.wq <+: t.wq ∧ s.log <+: t.log ∧ s.openCalls <+: t.openCalls ∧
    (t.phase = .fatal →
      t.clock = s.clock ∧ t.wq = s.wq ∧ t.handleA = s.handleA ∧ t.handleB = s.handleB) ∧
    (t.phase ≠ .fatal → t.fault = s.fault ∧ t.fcode = s.fcode)

/-- R31: a handle is opened by START alone and stays open until the block is reset. -/
def Obligations.OnlyStartOpensHandles : Prop :=
  ∀ (s t : State) (d : Device), step s = .next t →
    (s.handle d = .opened → (∀ r, s.sched ≠ .reset :: r) → t.handle d = .opened) ∧
    (s.handle d = .closed → t.handle d = .opened → ∃ r, s.sched = .present (.cmd 0x01#8) :: r)

/-- P_TRACE, P_PINMAP and the exit statuses are read by no step (R10, R47, R154, R162; log 3, 13). P_BUS is passed to
`open` and nowhere else (R10, R44): where the sheet holds the host's answers to both opens of a START, so that none of
them is a free value of the bus (log 4), changing it changes nothing but the bus in the calls of `open` the step adds to
the record (log 22; an event of LOG shows no bus, R36). -/
def Obligations.UnreadParametersChangeNothing : Prop :=
  ∀ (s : State) (b : Nat) (tr : TraceLevel) (pm : PinMap) (xc xd : Int),
    (b = s.cfg.bus ∨ 2 ≤ s.answers.opens.length) →
    let o := step { s with
      cfg := { s.cfg with bus := b, trace := tr, pinMap := pm, exitConfig := xc, exitDevice := xd } }
    match step s with
    | .next t => ∃ calls : List (Nat × Addr7),
        o = .next { t with
          cfg := { t.cfg with bus := b, trace := tr, pinMap := pm, exitConfig := xc, exitDevice := xd }
          openCalls := calls } ∧
        calls.map Prod.snd = t.openCalls.map Prod.snd ∧ (b = s.cfg.bus → calls = t.openCalls) ∧
        ((∀ r, s.sched ≠ .present (.cmd 0x01#8) :: r) → calls = t.openCalls)
    | .fault f => o = .fault f
    | .refused r => o = .refused r

/-! ### Emissions -/

/-- R104: how many payloads a TICK emits for each device. -/
def Obligations.TickEmissionCounts : Prop :=
  ∀ (s t : State) (c : Clock), s.phase = .run → s.wq = [] → s.clock = some c → c.InRange s.cfg.midnightFix →
    exec .tick s = .next t → t.phase = .run →
    t.wq.countP (fun p => p.dev = .a) = (if c.sec = 59#8 ∧ c.min = 59#8 ∧ c.hour = 12#8 then 2 else 1) ∧
    t.wq.countP (fun p => p.dev = .b) =
      (if c.sec = 59#8 ∧ c.min = 59#8 then (if c.hour = 12#8 then 2 else 1) else 0)

/-- R101, R105: every time payload a command queues shows the state the command ends in. -/
def Obligations.EmissionsShowTheEndState : Prop :=
  ∀ (i : Instr) (s t : State), exec i s = .next t → (i = .start ∨ i = .tick ∨ i = .resync) →
    s.wq = [] → t.phase = .run →
    ∃ c, t.clock = some c ∧
      (∀ p ∈ t.wq, p = smPayload c ∨ p = hPayload c ∨ (i = .start ∧ p = initPayload p.dev)) ∧
      lastFor .a t.wq = some (smPayload c) ∧
      (lastFor .b t.wq = none ∨ lastFor .b t.wq = some (hPayload c)) ∧
      (i ≠ .tick → lastFor .b t.wq = some (hPayload c))

/-! ### Invariants and whole-machine rules -/

/-- The invariant holds at reset. -/
def Obligations.ResetMeetsInvariant : Prop :=
  State.reset.Inv ∧ State.reset.LatchesFollowLog

/-- R25, R27, R28, R30, R120, R127, R153: every step keeps the invariant, whoever moves. -/
def Obligations.StepKeepsInvariant : Prop :=
  ∀ s t : State, s.Inv → step s = .next t → t.Inv

/-- R28: how PHASE moves, over every step, and FATAL exactly when FAULT = 1. The reset as a move of the schedule is
the model's (log 18). -/
def Obligations.PhaseMovesOnlyAsStated : Prop :=
  ∀ s t : State, s.StatusOk → step s = .next t →
    (t.phase = .fatal ↔ t.fault = true) ∧
    (t.phase = s.phase ∨
      (s.phase = .off ∧ t.phase = .run ∧ ∃ r, s.sched = .present (.cmd 0x01#8) :: r) ∨
      (s.phase ≠ .fatal ∧ t.phase = .fatal ∧ t.fault = true) ∨
      (t.phase = .off ∧ ∃ r, s.sched = .reset :: r))

/-- R143, R155, R170: in phase FATAL nothing of the block or the platform moves until a reset. The schedule and the
sheet of answers are the model's own (log 4, 5, 18). -/
def Obligations.OnlyResetLeavesFatal : Prop :=
  ∀ s t : State, s.phase = .fatal → step s = .next t →
    (∃ r, s.sched = .reset :: r) ∨
    (t = { s with sched := t.sched, answers := t.answers })

/-- In a state that meets the invariant and is not FATAL every instruction and every step has a next state: a read
of ⊥, bcd above 99 and a write with no handle are never reached (R26, R84, R127; log 9). -/
def Obligations.NoModelFaultFromInvariant : Prop :=
  ∀ s : State, s.Inv → s.phase ≠ .fatal →
    (∀ i, ∃ t, exec i s = .next t) ∧ (∃ t, step s = .next t)

/-- The values STATUS can show, exactly those of the table in 95 section 2.9 and the three without a fault. -/
def Obligations.StatusValuesAreThoseListed : Prop :=
  ∀ s : State, s.Inv →
    s.status ∈ ([0x00#8, 0x01#8, 0x05#8, 0x1A#8, 0x1E#8, 0x2A#8, 0x3A#8, 0x4E#8, 0x5A#8, 0x6A#8, 0x7A#8, 0x8A#8,
      0x8E#8] : List Byte)

/-- R158 H-D2, R174: a host that presents no START, TICK or RESYNC while BUSY = 1 never causes OVERLAP. -/
def Obligations.HostDutyAvoidsOverlap : Prop :=
  ∀ s t : State, s.keepsOverlapDuty = true → s.fcode ≠ .overlap → step s = .next t → t.fcode ≠ .overlap

/-- R52, R36: every step keeps the latches at what the last write in LOG left. -/
def Obligations.StepKeepsLatchesFollowingLog : Prop :=
  ∀ s t : State, s.LatchesFollowLog → step s = .next t → t.LatchesFollowLog

/-- R54, R36: LOG only grows, until the block is reset. -/
def Obligations.LogOnlyGrows : Prop :=
  ∀ s t : State, step s = .next t → (∀ r, s.sched ≠ .reset :: r) → s.log <+: t.log

/-- R55, H-D4: with nothing presented the writer agent drains WQ in as many steps as it holds entries, and the
writes reach the bus in queue order; the clock and the phase stay. That an empty schedule gives the writer its turn
is the model's reading of H-D4 (log 5), and that every write is answered leaves out a transport that hangs (log 14). -/
def Obligations.WriterDrainsQueueInOrder : Prop :=
  ∀ s : State, s.Inv → s.phase = .run → s.sched = [] →
    ∃ t : State, Sys2Proof.core.run s.wq.length s = .next t ∧ t.wq = [] ∧ t.clock = s.clock ∧ t.phase = .run ∧
      t.sched = [] ∧ wireWrites t.log = wireWrites s.log ++ s.wq.map Payload.wire

/-- R105, R131: when every write of a command returns OK, each latch that was written holds the inverted last
payload for its device, and the latch that was not written is as before. The sheet holds an OK for every entry and may hold
more answers behind them (log 4); the drain is that of an empty schedule (log 5). -/
def Obligations.DrainedLatchesShowLastPayloads : Prop :=
  ∀ s t : State, s.Inv → s.phase = .run → s.sched = [] → List.replicate s.wq.length .ok <+: s.answers.writes →
    Sys2Proof.core.run s.wq.length s = .next t →
    ∀ d, t.latch d = (match lastFor d s.wq with
      | some p => .holds (inv p.b0) (inv p.b1)
      | none   => s.latch d)

/-- R107: sixty TICKs, each followed by a WAIT, when the hour does not wrap. The schedule is what the model makes of
`TICKS 60` (log 5, 19, 20): each TICK settles a sheet on which every write is answered OK (log 4). -/
def Obligations.SixtyTicksAdvanceTheMinute : Prop :=
  ∀ (s : State) (c : Clock), s.Inv → s.phase = .run → s.clock = some c → s.wq = [] →
    s.sched = presentTicks 60 → ¬ (c.min = 59#8 ∧ c.hour = 12#8) →
    ∃ (k : Nat) (t : State), Sys2Proof.core.run k s = .next t ∧ t.sched = [] ∧ t.wq = [] ∧ t.phase = .run ∧
      t.clock = some ⟨c.sec, BitVec.ofNat 8 ((c.min.toNat + 1) % 60), if c.min = 59#8 then c.hour + 1 else c.hour⟩

/-! ### Program text -/

/-- R73, R74: a command line has an implicit WAIT unless NOWAIT follows, and then nothing stands between it and the next
line (log 20); `TICKS k` is k copies of TICK and WAIT; the other lines stand for one move each; NOWAIT that does not
stand just after a command line and `TICKS 0` are no program text (log 19). -/
def Obligations.AssemblerPlacesWaits : Prop :=
  (assemble [] = .ok []) ∧
  (∀ (ls : List Line) (l : List Stimulus), assemble ls = .ok l →
    (∀ w a, assemble (.command w a :: .nowait :: ls) = .ok (presentCommand w a ++ l)) ∧
    (ls.head? ≠ some .nowait → ∀ w a, assemble (.command w a :: ls) = .ok (presentCommand w a ++ .wait :: l)) ∧
    (∀ k, assemble (.ticks (k + 1) :: ls) = .ok (presentTicks (k + 1) ++ l)) ∧
    (∀ n, assemble (.encode n :: ls) = .ok (.present (.codec n) :: l)) ∧
    (∀ x y, assemble (.invert x y :: ls) = .ok (.present (.inv x y) :: l)) ∧
    assemble (.wait :: ls) = .ok (.wait :: l)) ∧
  (presentTicks 0 = [] ∧
    ∀ k, presentTicks (k + 1) = presentCommand 0x02#8 LineAnswers.none ++ .wait :: presentTicks k) ∧
  (∀ ls, assemble (.nowait :: ls) = .error .strayNowait) ∧
  (∀ x ls, (∀ w a, x ≠ .command w a) → x ≠ .ticks 0 → assemble (x :: .nowait :: ls) = .error .strayNowait) ∧
  (∀ pre x ls, (∀ w a, x ≠ .command w a) → ∃ e, assemble (pre ++ x :: .nowait :: ls) = .error e) ∧
  (∀ ls, assemble (.ticks 0 :: ls) = .error .noTicks)
end

