-- ==== Sys2Proof/Laws/Bytes.lean ====
section
/-! SUPPORT. The functions on bytes: the codec, the inverter and the twelve-hour conversion. -/

namespace Sys2Proof.Machine

/-- Below 256 the codec's bit formula is tens times sixteen plus ones, taken modulo 256 (R82, R83). -/
theorem bcd_toNat {n : Nat} (h : n < 256) : (bcd n).toNat = n / 10 % 16 * 16 + n % 10 := by
  have key : ∀ k : Fin 256, (bcd k.val).toNat = k.val / 10 % 16 * 16 + k.val % 10 := by decide +kernel
  exact key ⟨n, h⟩

/-- In the contract of R83 no nibble is cut. -/
theorem bcd_toNat_of_le {n : Nat} (h : n ≤ 99) : (bcd n).toNat = n / 10 * 16 + n % 10 := by
  rw [bcd_toNat (by omega)]; omega

@[simp] theorem inv_inv (x : Byte) : inv (inv x) = x := by
  simp [inv]

/-- The stored hour of a host hour in contract is at most 12 (R98). -/
theorem to12_le {fix : Bool} {h : Nat} (hh : h ≤ 23) : to12 fix h ≤ 12 := by
  unfold to12; split_ifs <;> omega

/-- With the fix the stored hour is never 0 (R98, R108). -/
theorem to12_pos {h : Nat} : 1 ≤ to12 true h := by
  unfold to12; split_ifs with h1 h2
  · omega
  · omega
  · simp only [and_true] at h2; omega

/-- The contract of R43, as inequalities. -/
theorem hostTimeOk_iff {t : HostTime} : hostTimeOk t = true ↔ t.h24 ≤ 23 ∧ t.m ≤ 59 ∧ t.s ≤ 59 := by
  simp [hostTimeOk, and_assoc]

@[simp] theorem smPayload_dev (c : Clock) : (smPayload c).dev = .a := rfl
@[simp] theorem hPayload_dev (c : Clock) : (hPayload c).dev = .b := rfl
@[simp] theorem hPayload_b1 (c : Clock) : (hPayload c).b1 = filler := rfl
@[simp] theorem initPayload_dev (d : Device) : (initPayload d).dev = d := rfl

/-- The registers `resync` writes (R96), as numbers. -/
theorem clockOf_toNat {fix : Bool} {t : HostTime} (h : hostTimeOk t = true) :
    (clockOf fix t).sec.toNat = t.s ∧ (clockOf fix t).min.toNat = t.m ∧
      (clockOf fix t).hour.toNat = to12 fix t.h24 := by
  rw [hostTimeOk_iff] at h
  have := to12_le (fix := fix) h.1
  simp only [clockOf, BitVec.toNat_ofNat]
  omega

end Sys2Proof.Machine
end

