-- ==== Sys2Proof/Laws/State.lean ====
section
/-! SUPPORT. One lemma for each field of State and each named update of it, so that no proof unfolds an update. -/

namespace Sys2Proof.Machine

/-! ### State.afterNow -/

@[simp] theorem State.afterNow_clock (s : State) :
    (s.afterNow).clock = s.clock := rfl
@[simp] theorem State.afterNow_phase (s : State) :
    (s.afterNow).phase = s.phase := rfl
@[simp] theorem State.afterNow_fault (s : State) :
    (s.afterNow).fault = s.fault := rfl
@[simp] theorem State.afterNow_fcode (s : State) :
    (s.afterNow).fcode = s.fcode := rfl
@[simp] theorem State.afterNow_wq (s : State) :
    (s.afterNow).wq = s.wq := rfl
@[simp] theorem State.afterNow_handleA (s : State) :
    (s.afterNow).handleA = s.handleA := rfl
@[simp] theorem State.afterNow_handleB (s : State) :
    (s.afterNow).handleB = s.handleB := rfl
@[simp] theorem State.afterNow_latchA (s : State) :
    (s.afterNow).latchA = s.latchA := rfl
@[simp] theorem State.afterNow_latchB (s : State) :
    (s.afterNow).latchB = s.latchB := rfl
@[simp] theorem State.afterNow_log (s : State) :
    (s.afterNow).log = s.log ++ [.read s.nextNow] := rfl
@[simp] theorem State.afterNow_cfg (s : State) :
    (s.afterNow).cfg = s.cfg := rfl
@[simp] theorem State.afterNow_outs (s : State) :
    (s.afterNow).outs = s.outs := rfl
@[simp] theorem State.afterNow_openCalls (s : State) :
    (s.afterNow).openCalls = s.openCalls := rfl
@[simp] theorem State.afterNow_sched (s : State) :
    (s.afterNow).sched = s.sched := rfl
@[simp] theorem State.afterNow_answers (s : State) :
    (s.afterNow).answers = { s.answers with now := s.answers.now.tail } := rfl
@[simp] theorem State.afterNow_draws (s : State) :
    (s.afterNow).draws = if s.answers.now.isEmpty then s.draws + 1 else s.draws := rfl

/-! ### State.enqueue -/

@[simp] theorem State.enqueue_clock (s : State) (p : Payload) :
    (s.enqueue p).clock = s.clock := rfl
@[simp] theorem State.enqueue_phase (s : State) (p : Payload) :
    (s.enqueue p).phase = s.phase := rfl
@[simp] theorem State.enqueue_fault (s : State) (p : Payload) :
    (s.enqueue p).fault = s.fault := rfl
@[simp] theorem State.enqueue_fcode (s : State) (p : Payload) :
    (s.enqueue p).fcode = s.fcode := rfl
@[simp] theorem State.enqueue_wq (s : State) (p : Payload) :
    (s.enqueue p).wq = s.wq ++ [p] := rfl
@[simp] theorem State.enqueue_handleA (s : State) (p : Payload) :
    (s.enqueue p).handleA = s.handleA := rfl
@[simp] theorem State.enqueue_handleB (s : State) (p : Payload) :
    (s.enqueue p).handleB = s.handleB := rfl
@[simp] theorem State.enqueue_latchA (s : State) (p : Payload) :
    (s.enqueue p).latchA = s.latchA := rfl
@[simp] theorem State.enqueue_latchB (s : State) (p : Payload) :
    (s.enqueue p).latchB = s.latchB := rfl
@[simp] theorem State.enqueue_log (s : State) (p : Payload) :
    (s.enqueue p).log = s.log := rfl
@[simp] theorem State.enqueue_cfg (s : State) (p : Payload) :
    (s.enqueue p).cfg = s.cfg := rfl
@[simp] theorem State.enqueue_outs (s : State) (p : Payload) :
    (s.enqueue p).outs = s.outs := rfl
@[simp] theorem State.enqueue_openCalls (s : State) (p : Payload) :
    (s.enqueue p).openCalls = s.openCalls := rfl
@[simp] theorem State.enqueue_sched (s : State) (p : Payload) :
    (s.enqueue p).sched = s.sched := rfl
@[simp] theorem State.enqueue_answers (s : State) (p : Payload) :
    (s.enqueue p).answers = s.answers := rfl
@[simp] theorem State.enqueue_draws (s : State) (p : Payload) :
    (s.enqueue p).draws = s.draws := rfl

/-! ### State.output -/

@[simp] theorem State.output_clock (s : State) (o : PortOut) :
    (s.output o).clock = s.clock := rfl
@[simp] theorem State.output_phase (s : State) (o : PortOut) :
    (s.output o).phase = s.phase := rfl
@[simp] theorem State.output_fault (s : State) (o : PortOut) :
    (s.output o).fault = s.fault := rfl
@[simp] theorem State.output_fcode (s : State) (o : PortOut) :
    (s.output o).fcode = s.fcode := rfl
@[simp] theorem State.output_wq (s : State) (o : PortOut) :
    (s.output o).wq = s.wq := rfl
@[simp] theorem State.output_handleA (s : State) (o : PortOut) :
    (s.output o).handleA = s.handleA := rfl
@[simp] theorem State.output_handleB (s : State) (o : PortOut) :
    (s.output o).handleB = s.handleB := rfl
@[simp] theorem State.output_latchA (s : State) (o : PortOut) :
    (s.output o).latchA = s.latchA := rfl
@[simp] theorem State.output_latchB (s : State) (o : PortOut) :
    (s.output o).latchB = s.latchB := rfl
@[simp] theorem State.output_log (s : State) (o : PortOut) :
    (s.output o).log = s.log := rfl
@[simp] theorem State.output_cfg (s : State) (o : PortOut) :
    (s.output o).cfg = s.cfg := rfl
@[simp] theorem State.output_outs (s : State) (o : PortOut) :
    (s.output o).outs = s.outs ++ [o] := rfl
@[simp] theorem State.output_openCalls (s : State) (o : PortOut) :
    (s.output o).openCalls = s.openCalls := rfl
@[simp] theorem State.output_sched (s : State) (o : PortOut) :
    (s.output o).sched = s.sched := rfl
@[simp] theorem State.output_answers (s : State) (o : PortOut) :
    (s.output o).answers = s.answers := rfl
@[simp] theorem State.output_draws (s : State) (o : PortOut) :
    (s.output o).draws = s.draws := rfl

/-! ### State.setOpened -/

@[simp] theorem State.setOpened_clock (s : State) (d : Device) :
    (s.setOpened d).clock = s.clock := by cases d <;> rfl
@[simp] theorem State.setOpened_phase (s : State) (d : Device) :
    (s.setOpened d).phase = s.phase := by cases d <;> rfl
@[simp] theorem State.setOpened_fault (s : State) (d : Device) :
    (s.setOpened d).fault = s.fault := by cases d <;> rfl
@[simp] theorem State.setOpened_fcode (s : State) (d : Device) :
    (s.setOpened d).fcode = s.fcode := by cases d <;> rfl
@[simp] theorem State.setOpened_wq (s : State) (d : Device) :
    (s.setOpened d).wq = s.wq := by cases d <;> rfl
@[simp] theorem State.setOpened_handleA (s : State) (d : Device) :
    (s.setOpened d).handleA = if d = .a then .opened else s.handleA := by cases d <;> rfl
@[simp] theorem State.setOpened_handleB (s : State) (d : Device) :
    (s.setOpened d).handleB = if d = .b then .opened else s.handleB := by cases d <;> rfl
@[simp] theorem State.setOpened_latchA (s : State) (d : Device) :
    (s.setOpened d).latchA = s.latchA := by cases d <;> rfl
@[simp] theorem State.setOpened_latchB (s : State) (d : Device) :
    (s.setOpened d).latchB = s.latchB := by cases d <;> rfl
@[simp] theorem State.setOpened_log (s : State) (d : Device) :
    (s.setOpened d).log = s.log := by cases d <;> rfl
@[simp] theorem State.setOpened_cfg (s : State) (d : Device) :
    (s.setOpened d).cfg = s.cfg := by cases d <;> rfl
@[simp] theorem State.setOpened_outs (s : State) (d : Device) :
    (s.setOpened d).outs = s.outs := by cases d <;> rfl
@[simp] theorem State.setOpened_openCalls (s : State) (d : Device) :
    (s.setOpened d).openCalls = s.openCalls := by cases d <;> rfl
@[simp] theorem State.setOpened_sched (s : State) (d : Device) :
    (s.setOpened d).sched = s.sched := by cases d <;> rfl
@[simp] theorem State.setOpened_answers (s : State) (d : Device) :
    (s.setOpened d).answers = s.answers := by cases d <;> rfl
@[simp] theorem State.setOpened_draws (s : State) (d : Device) :
    (s.setOpened d).draws = s.draws := by cases d <;> rfl

/-! ### State.setLatch -/

@[simp] theorem State.setLatch_clock (s : State) (d : Device) (l : Latch) :
    (s.setLatch d l).clock = s.clock := by cases d <;> rfl
@[simp] theorem State.setLatch_phase (s : State) (d : Device) (l : Latch) :
    (s.setLatch d l).phase = s.phase := by cases d <;> rfl
@[simp] theorem State.setLatch_fault (s : State) (d : Device) (l : Latch) :
    (s.setLatch d l).fault = s.fault := by cases d <;> rfl
@[simp] theorem State.setLatch_fcode (s : State) (d : Device) (l : Latch) :
    (s.setLatch d l).fcode = s.fcode := by cases d <;> rfl
@[simp] theorem State.setLatch_wq (s : State) (d : Device) (l : Latch) :
    (s.setLatch d l).wq = s.wq := by cases d <;> rfl
@[simp] theorem State.setLatch_handleA (s : State) (d : Device) (l : Latch) :
    (s.setLatch d l).handleA = s.handleA := by cases d <;> rfl
@[simp] theorem State.setLatch_handleB (s : State) (d : Device) (l : Latch) :
    (s.setLatch d l).handleB = s.handleB := by cases d <;> rfl
@[simp] theorem State.setLatch_latchA (s : State) (d : Device) (l : Latch) :
    (s.setLatch d l).latchA = if d = .a then l else s.latchA := by cases d <;> rfl
@[simp] theorem State.setLatch_latchB (s : State) (d : Device) (l : Latch) :
    (s.setLatch d l).latchB = if d = .b then l else s.latchB := by cases d <;> rfl
@[simp] theorem State.setLatch_log (s : State) (d : Device) (l : Latch) :
    (s.setLatch d l).log = s.log := by cases d <;> rfl
@[simp] theorem State.setLatch_cfg (s : State) (d : Device) (l : Latch) :
    (s.setLatch d l).cfg = s.cfg := by cases d <;> rfl
@[simp] theorem State.setLatch_outs (s : State) (d : Device) (l : Latch) :
    (s.setLatch d l).outs = s.outs := by cases d <;> rfl
@[simp] theorem State.setLatch_openCalls (s : State) (d : Device) (l : Latch) :
    (s.setLatch d l).openCalls = s.openCalls := by cases d <;> rfl
@[simp] theorem State.setLatch_sched (s : State) (d : Device) (l : Latch) :
    (s.setLatch d l).sched = s.sched := by cases d <;> rfl
@[simp] theorem State.setLatch_answers (s : State) (d : Device) (l : Latch) :
    (s.setLatch d l).answers = s.answers := by cases d <;> rfl
@[simp] theorem State.setLatch_draws (s : State) (d : Device) (l : Latch) :
    (s.setLatch d l).draws = s.draws := by cases d <;> rfl

/-! ### State.afterOpen -/

@[simp] theorem State.afterOpen_clock (s : State) (d : Device) :
    (s.afterOpen d).clock = s.clock := by
  unfold State.afterOpen; cases h : s.nextOpen d <;> cases d <;> simp [State.setOpened]
@[simp] theorem State.afterOpen_phase (s : State) (d : Device) :
    (s.afterOpen d).phase = s.phase := by
  unfold State.afterOpen; cases h : s.nextOpen d <;> cases d <;> simp [State.setOpened]
@[simp] theorem State.afterOpen_fault (s : State) (d : Device) :
    (s.afterOpen d).fault = s.fault := by
  unfold State.afterOpen; cases h : s.nextOpen d <;> cases d <;> simp [State.setOpened]
@[simp] theorem State.afterOpen_fcode (s : State) (d : Device) :
    (s.afterOpen d).fcode = s.fcode := by
  unfold State.afterOpen; cases h : s.nextOpen d <;> cases d <;> simp [State.setOpened]
@[simp] theorem State.afterOpen_wq (s : State) (d : Device) :
    (s.afterOpen d).wq = s.wq := by
  unfold State.afterOpen; cases h : s.nextOpen d <;> cases d <;> simp [State.setOpened]
@[simp] theorem State.afterOpen_handleA (s : State) (d : Device) :
    (s.afterOpen d).handleA = if s.nextOpen d = .ok ∧ d = .a then .opened else s.handleA := by
  unfold State.afterOpen; cases h : s.nextOpen d <;> cases d <;> simp [State.setOpened]
@[simp] theorem State.afterOpen_handleB (s : State) (d : Device) :
    (s.afterOpen d).handleB = if s.nextOpen d = .ok ∧ d = .b then .opened else s.handleB := by
  unfold State.afterOpen; cases h : s.nextOpen d <;> cases d <;> simp [State.setOpened]
@[simp] theorem State.afterOpen_latchA (s : State) (d : Device) :
    (s.afterOpen d).latchA = s.latchA := by
  unfold State.afterOpen; cases h : s.nextOpen d <;> cases d <;> simp [State.setOpened]
@[simp] theorem State.afterOpen_latchB (s : State) (d : Device) :
    (s.afterOpen d).latchB = s.latchB := by
  unfold State.afterOpen; cases h : s.nextOpen d <;> cases d <;> simp [State.setOpened]
@[simp] theorem State.afterOpen_log (s : State) (d : Device) :
    (s.afterOpen d).log = s.log ++ [.open d (s.nextOpen d)] := by
  unfold State.afterOpen; cases h : s.nextOpen d <;> cases d <;> simp [State.setOpened]
@[simp] theorem State.afterOpen_cfg (s : State) (d : Device) :
    (s.afterOpen d).cfg = s.cfg := by
  unfold State.afterOpen; cases h : s.nextOpen d <;> cases d <;> simp [State.setOpened]
@[simp] theorem State.afterOpen_outs (s : State) (d : Device) :
    (s.afterOpen d).outs = s.outs := by
  unfold State.afterOpen; cases h : s.nextOpen d <;> cases d <;> simp [State.setOpened]
@[simp] theorem State.afterOpen_openCalls (s : State) (d : Device) :
    (s.afterOpen d).openCalls = s.openCalls ++ [targetOf s.cfg d] := by
  unfold State.afterOpen; cases h : s.nextOpen d <;> cases d <;> simp [State.setOpened]
@[simp] theorem State.afterOpen_sched (s : State) (d : Device) :
    (s.afterOpen d).sched = s.sched := by
  unfold State.afterOpen; cases h : s.nextOpen d <;> cases d <;> simp [State.setOpened]
@[simp] theorem State.afterOpen_answers (s : State) (d : Device) :
    (s.afterOpen d).answers = { s.answers with opens := s.answers.opens.tail } := by
  unfold State.afterOpen; cases h : s.nextOpen d <;> cases d <;> simp [State.setOpened]
@[simp] theorem State.afterOpen_draws (s : State) (d : Device) :
    (s.afterOpen d).draws = if s.answers.opens.isEmpty then s.draws + 1 else s.draws := by
  unfold State.afterOpen; cases h : s.nextOpen d <;> cases d <;> simp [State.setOpened]

/-! ### State.busWrite -/

@[simp] theorem State.busWrite_clock (s : State) (d : Device) (w0 w1 : Byte) :
    (s.busWrite d w0 w1).clock = s.clock := by cases d <;> rfl
@[simp] theorem State.busWrite_phase (s : State) (d : Device) (w0 w1 : Byte) :
    (s.busWrite d w0 w1).phase = s.phase := by cases d <;> rfl
@[simp] theorem State.busWrite_fault (s : State) (d : Device) (w0 w1 : Byte) :
    (s.busWrite d w0 w1).fault = s.fault := by cases d <;> rfl
@[simp] theorem State.busWrite_fcode (s : State) (d : Device) (w0 w1 : Byte) :
    (s.busWrite d w0 w1).fcode = s.fcode := by cases d <;> rfl
@[simp] theorem State.busWrite_wq (s : State) (d : Device) (w0 w1 : Byte) :
    (s.busWrite d w0 w1).wq = s.wq := by cases d <;> rfl
@[simp] theorem State.busWrite_handleA (s : State) (d : Device) (w0 w1 : Byte) :
    (s.busWrite d w0 w1).handleA = s.handleA := by cases d <;> rfl
@[simp] theorem State.busWrite_handleB (s : State) (d : Device) (w0 w1 : Byte) :
    (s.busWrite d w0 w1).handleB = s.handleB := by cases d <;> rfl
@[simp] theorem State.busWrite_latchA (s : State) (d : Device) (w0 w1 : Byte) :
    (s.busWrite d w0 w1).latchA = if d = .a then latchAfter w0 w1 s.nextWrite else s.latchA := by cases d <;> rfl
@[simp] theorem State.busWrite_latchB (s : State) (d : Device) (w0 w1 : Byte) :
    (s.busWrite d w0 w1).latchB = if d = .b then latchAfter w0 w1 s.nextWrite else s.latchB := by cases d <;> rfl
@[simp] theorem State.busWrite_log (s : State) (d : Device) (w0 w1 : Byte) :
    (s.busWrite d w0 w1).log = s.log ++ [.write d (addrOf s.cfg d) w0 w1 s.nextWrite] := by cases d <;> rfl
@[simp] theorem State.busWrite_cfg (s : State) (d : Device) (w0 w1 : Byte) :
    (s.busWrite d w0 w1).cfg = s.cfg := by cases d <;> rfl
@[simp] theorem State.busWrite_outs (s : State) (d : Device) (w0 w1 : Byte) :
    (s.busWrite d w0 w1).outs = s.outs := by cases d <;> rfl
@[simp] theorem State.busWrite_openCalls (s : State) (d : Device) (w0 w1 : Byte) :
    (s.busWrite d w0 w1).openCalls = s.openCalls := by cases d <;> rfl
@[simp] theorem State.busWrite_sched (s : State) (d : Device) (w0 w1 : Byte) :
    (s.busWrite d w0 w1).sched = s.sched := by cases d <;> rfl
@[simp] theorem State.busWrite_answers (s : State) (d : Device) (w0 w1 : Byte) :
    (s.busWrite d w0 w1).answers = { s.answers with writes := s.answers.writes.tail } := by cases d <;> rfl
@[simp] theorem State.busWrite_draws (s : State) (d : Device) (w0 w1 : Byte) :
    (s.busWrite d w0 w1).draws = if s.answers.writes.isEmpty then s.draws + 1 else s.draws := by cases d <;> rfl

/-! ### State.raiseAt -/

@[simp] theorem State.raiseAt_clock (s0 s : State) (code : FCode) :
    (s0.raiseAt code s).clock = s0.clock := rfl
@[simp] theorem State.raiseAt_phase (s0 s : State) (code : FCode) :
    (s0.raiseAt code s).phase = .fatal := rfl
@[simp] theorem State.raiseAt_fault (s0 s : State) (code : FCode) :
    (s0.raiseAt code s).fault = true := rfl
@[simp] theorem State.raiseAt_fcode (s0 s : State) (code : FCode) :
    (s0.raiseAt code s).fcode = if s0.fault then s0.fcode else code := rfl
@[simp] theorem State.raiseAt_wq (s0 s : State) (code : FCode) :
    (s0.raiseAt code s).wq = s0.wq := rfl
@[simp] theorem State.raiseAt_handleA (s0 s : State) (code : FCode) :
    (s0.raiseAt code s).handleA = s0.handleA := rfl
@[simp] theorem State.raiseAt_handleB (s0 s : State) (code : FCode) :
    (s0.raiseAt code s).handleB = s0.handleB := rfl
@[simp] theorem State.raiseAt_latchA (s0 s : State) (code : FCode) :
    (s0.raiseAt code s).latchA = s0.latchA := rfl
@[simp] theorem State.raiseAt_latchB (s0 s : State) (code : FCode) :
    (s0.raiseAt code s).latchB = s0.latchB := rfl
@[simp] theorem State.raiseAt_log (s0 s : State) (code : FCode) :
    (s0.raiseAt code s).log = s.log := rfl
@[simp] theorem State.raiseAt_cfg (s0 s : State) (code : FCode) :
    (s0.raiseAt code s).cfg = s0.cfg := rfl
@[simp] theorem State.raiseAt_outs (s0 s : State) (code : FCode) :
    (s0.raiseAt code s).outs = s0.outs := rfl
@[simp] theorem State.raiseAt_openCalls (s0 s : State) (code : FCode) :
    (s0.raiseAt code s).openCalls = s.openCalls := rfl
@[simp] theorem State.raiseAt_sched (s0 s : State) (code : FCode) :
    (s0.raiseAt code s).sched = s0.sched := rfl
@[simp] theorem State.raiseAt_answers (s0 s : State) (code : FCode) :
    (s0.raiseAt code s).answers = s.answers := rfl
@[simp] theorem State.raiseAt_draws (s0 s : State) (code : FCode) :
    (s0.raiseAt code s).draws = s.draws := rfl

/-! ### State.raise -/

@[simp] theorem State.raise_clock (s : State) (code : FCode) :
    (s.raise code).clock = s.clock := rfl
@[simp] theorem State.raise_phase (s : State) (code : FCode) :
    (s.raise code).phase = .fatal := rfl
@[simp] theorem State.raise_fault (s : State) (code : FCode) :
    (s.raise code).fault = true := rfl
@[simp] theorem State.raise_fcode (s : State) (code : FCode) :
    (s.raise code).fcode = if s.fault then s.fcode else code := rfl
@[simp] theorem State.raise_wq (s : State) (code : FCode) :
    (s.raise code).wq = s.wq := rfl
@[simp] theorem State.raise_handleA (s : State) (code : FCode) :
    (s.raise code).handleA = s.handleA := rfl
@[simp] theorem State.raise_handleB (s : State) (code : FCode) :
    (s.raise code).handleB = s.handleB := rfl
@[simp] theorem State.raise_latchA (s : State) (code : FCode) :
    (s.raise code).latchA = s.latchA := rfl
@[simp] theorem State.raise_latchB (s : State) (code : FCode) :
    (s.raise code).latchB = s.latchB := rfl
@[simp] theorem State.raise_log (s : State) (code : FCode) :
    (s.raise code).log = s.log := rfl
@[simp] theorem State.raise_cfg (s : State) (code : FCode) :
    (s.raise code).cfg = s.cfg := rfl
@[simp] theorem State.raise_outs (s : State) (code : FCode) :
    (s.raise code).outs = s.outs := rfl
@[simp] theorem State.raise_openCalls (s : State) (code : FCode) :
    (s.raise code).openCalls = s.openCalls := rfl
@[simp] theorem State.raise_sched (s : State) (code : FCode) :
    (s.raise code).sched = s.sched := rfl
@[simp] theorem State.raise_answers (s : State) (code : FCode) :
    (s.raise code).answers = s.answers := rfl
@[simp] theorem State.raise_draws (s : State) (code : FCode) :
    (s.raise code).draws = s.draws := rfl

/-! ### State.blockReset -/

@[simp] theorem State.blockReset_clock (s : State) :
    (s.blockReset).clock = none := rfl
@[simp] theorem State.blockReset_phase (s : State) :
    (s.blockReset).phase = .off := rfl
@[simp] theorem State.blockReset_fault (s : State) :
    (s.blockReset).fault = false := rfl
@[simp] theorem State.blockReset_fcode (s : State) :
    (s.blockReset).fcode = .none := rfl
@[simp] theorem State.blockReset_wq (s : State) :
    (s.blockReset).wq = [] := rfl
@[simp] theorem State.blockReset_handleA (s : State) :
    (s.blockReset).handleA = .closed := rfl
@[simp] theorem State.blockReset_handleB (s : State) :
    (s.blockReset).handleB = .closed := rfl
@[simp] theorem State.blockReset_latchA (s : State) :
    (s.blockReset).latchA = s.latchA := rfl
@[simp] theorem State.blockReset_latchB (s : State) :
    (s.blockReset).latchB = s.latchB := rfl
@[simp] theorem State.blockReset_log (s : State) :
    (s.blockReset).log = [] := rfl
@[simp] theorem State.blockReset_cfg (s : State) :
    (s.blockReset).cfg = s.cfg := rfl
@[simp] theorem State.blockReset_outs (s : State) :
    (s.blockReset).outs = [] := rfl
@[simp] theorem State.blockReset_openCalls (s : State) :
    (s.blockReset).openCalls = [] := rfl
@[simp] theorem State.blockReset_sched (s : State) :
    (s.blockReset).sched = s.sched := rfl
@[simp] theorem State.blockReset_answers (s : State) :
    (s.blockReset).answers = s.answers := rfl
@[simp] theorem State.blockReset_draws (s : State) :
    (s.blockReset).draws = s.draws := rfl

end Sys2Proof.Machine
end

