-- ==== Sys2Proof/Laws/Ops.lean ====
section
/-! SUPPORT. One lemma for each shared operation that says all it can do. -/

namespace Sys2Proof.Machine

/-! ### The checks of R153 -/

theorem State.ifNotFatal_of_fatal {s : State} {o : Result} (h : s.phase = .fatal) :
    s.ifNotFatal o = .fault .halted := by
  simp [State.ifNotFatal, h]

theorem State.ifNotFatal_of_ne {s : State} {o : Result} (h : s.phase ≠ .fatal) : s.ifNotFatal o = o := by
  unfold State.ifNotFatal
  split <;> simp_all

/-- A check that lets a next state through lets it through unchanged, outside FATAL. -/
theorem State.ifNotFatal_next {s t : State} {o : Result} :
    s.ifNotFatal o = .next t ↔ s.phase ≠ .fatal ∧ o = .next t := by
  by_cases h : s.phase = .fatal
  · simp [State.ifNotFatal_of_fatal h, h]
  · simp [State.ifNotFatal_of_ne h, h]

/-- `BUSY` is 0 exactly when nothing waits (R29). -/
theorem State.busy_eq_false {s : State} : s.busy = false ↔ s.wq = [] := by
  simp [State.busy]

theorem State.busy_eq_true {s : State} : s.busy = true ↔ s.wq ≠ [] := by
  simp [State.busy]

theorem State.ifNotBusy_of_nil {s t : State} (h : s.wq = []) : s.ifNotBusy t = t := by
  simp [State.ifNotBusy, State.busy, h]

theorem State.ifNotBusy_of_ne {s t : State} (h : s.wq ≠ []) : s.ifNotBusy t = s.raise .overlap := by
  simp [State.ifNotBusy, State.busy, h]

/-! ### The host's primitives -/

/-- The handle of a device after `Open` on a device. -/
theorem State.handle_afterOpen (s : State) (d e : Device) :
    (s.afterOpen d).handle e = if s.nextOpen d = .ok ∧ d = e then .opened else s.handle e := by
  cases e <;> simp [State.handle]

/-- The latch of a device after a write to a device (R52). -/
theorem State.latch_busWrite (s : State) (d e : Device) (w0 w1 : Byte) :
    (s.busWrite d w0 w1).latch e = if d = e then latchAfter w0 w1 s.nextWrite else s.latch e := by
  cases e <;> simp [State.latch]

/-- The answers of `HostNow` do not depend on what is queued. -/
@[simp] theorem State.nextNow_enqueue (s : State) (p : Payload) : (s.enqueue p).nextNow = s.nextNow := rfl

@[simp] theorem State.nextNow_setOpened (s : State) (d : Device) : (s.setOpened d).nextNow = s.nextNow := by
  cases d <;> rfl

/-! ### The procedures -/

/-- What `resync` can do (R96, R43). -/
theorem resync_cases (s : State) :
    (hostTimeOk s.nextNow = true ∧
      resync s = .done (clockOf s.cfg.midnightFix s.nextNow)
        ((s.afterNow.enqueue (smPayload (clockOf s.cfg.midnightFix s.nextNow))).enqueue
          (hPayload (clockOf s.cfg.midnightFix s.nextNow)))) ∨
    (hostTimeOk s.nextNow = false ∧ resync s = .raised .hostRange s.afterNow) := by
  unfold resync emitSM emitH
  cases hostTimeOk s.nextNow <;> simp

/-- The end of a command, by how its procedure ended. -/
@[simp] theorem Flow.commit_done (s0 s : State) (c : Clock) :
    (Flow.done c s).commit s0 = { s with clock := some c } := rfl

@[simp] theorem Flow.commit_raised (s0 s : State) (code : FCode) :
    (Flow.raised code s).commit s0 = s0.raiseAt code s := rfl

@[simp] theorem Flow.thenEmit_done (c : Clock) (s : State) (e : Clock → State → State) :
    (Flow.done c s).thenEmit e = .done c (e c s) := rfl

@[simp] theorem Flow.thenEmit_raised (s : State) (code : FCode) (e : Clock → State → State) :
    (Flow.raised code s).thenEmit e = .raised code s := rfl

/-- `incHour` without the wraparound (R97). -/
theorem incHour_of_le {c : Clock} (s : State) (h : (c.hour + 1).toNat ≤ 12) :
    incHour c s = .done { c with hour := c.hour + 1 } (s.enqueue (hPayload { c with hour := c.hour + 1 })) := by
  simp only [incHour, if_neg (Nat.not_lt.mpr h)]; rfl

/-- `incHour` with the wraparound: `resync`, then one more hour payload (R97). -/
theorem incHour_of_gt {c : Clock} (s : State) (h : 12 < (c.hour + 1).toNat) :
    incHour c s = (resync s).thenEmit emitH := by
  simp only [incHour, if_pos h]

/-- `incMinute` without the carry into the hour (R94). -/
theorem incMinute_of_le {c : Clock} (s : State) (h : (c.min + 1).toNat ≤ 59) :
    incMinute c s = .done { c with min := c.min + 1 } (s.enqueue (smPayload { c with min := c.min + 1 })) := by
  simp only [incMinute, if_neg (Nat.not_lt.mpr h)]; rfl

/-- `incMinute` with the carry (R94). -/
theorem incMinute_of_gt {c : Clock} (s : State) (h : 59 < (c.min + 1).toNat) :
    incMinute c s = (incHour { c with min := 0 } s).thenEmit emitSM := by
  simp only [incMinute, if_pos h]

/-- The carry of an 8-bit counter that is in range: the increment does not wrap at 256 (R24). -/
theorem toNat_succ_of_lt {x : Byte} (h : x.toNat < 255) : (x + 1).toNat = x.toNat + 1 := by
  have : (1 : Byte).toNat = 1 := rfl
  rw [BitVec.toNat_add, this]; omega

end Sys2Proof.Machine
end

