-- ==== Sys2Proof/Laws/Commands.lean ====
section
/-! SUPPORT. What each command can do, said once: if its meaning answers a next state, that state is one of these. -/

namespace Sys2Proof.Machine

/-- A command that ends in the registers `c`, begun in a state whose queue and log have become those of `s`. -/
def State.withClock (s : State) (c : Clock) : State := { s with clock := some c }

/-! Each field of a state whose registers were set. -/

@[simp] theorem State.withClock_clock (s : State) (c : Clock) : (s.withClock c).clock = some c := rfl
@[simp] theorem State.withClock_phase (s : State) (c : Clock) : (s.withClock c).phase = s.phase := rfl
@[simp] theorem State.withClock_fault (s : State) (c : Clock) : (s.withClock c).fault = s.fault := rfl
@[simp] theorem State.withClock_fcode (s : State) (c : Clock) : (s.withClock c).fcode = s.fcode := rfl
@[simp] theorem State.withClock_wq (s : State) (c : Clock) : (s.withClock c).wq = s.wq := rfl
@[simp] theorem State.withClock_handleA (s : State) (c : Clock) : (s.withClock c).handleA = s.handleA := rfl
@[simp] theorem State.withClock_handleB (s : State) (c : Clock) : (s.withClock c).handleB = s.handleB := rfl
@[simp] theorem State.withClock_latchA (s : State) (c : Clock) : (s.withClock c).latchA = s.latchA := rfl
@[simp] theorem State.withClock_latchB (s : State) (c : Clock) : (s.withClock c).latchB = s.latchB := rfl
@[simp] theorem State.withClock_log (s : State) (c : Clock) : (s.withClock c).log = s.log := rfl
@[simp] theorem State.withClock_cfg (s : State) (c : Clock) : (s.withClock c).cfg = s.cfg := rfl
@[simp] theorem State.withClock_outs (s : State) (c : Clock) : (s.withClock c).outs = s.outs := rfl
@[simp] theorem State.withClock_openCalls (s : State) (c : Clock) : (s.withClock c).openCalls = s.openCalls := rfl
@[simp] theorem State.withClock_sched (s : State) (c : Clock) : (s.withClock c).sched = s.sched := rfl
@[simp] theorem State.withClock_answers (s : State) (c : Clock) : (s.withClock c).answers = s.answers := rfl
@[simp] theorem State.withClock_draws (s : State) (c : Clock) : (s.withClock c).draws = s.draws := rfl

/-- The clock registers the host's next answer gives (R96). -/
def State.nextClock (s : State) : Clock := clockOf s.cfg.midnightFix s.nextNow

/-- The body of TICK: the four cases of R103 and the wrap whose host answer is out of contract (R150). -/
theorem tickStep_next {c : Clock} {s t : State} (h : tickStep c s = .next t) :
    ((c.sec + 1).toNat ≤ 59 ∧ c.min.toNat ≤ 99 ∧
      t = (s.enqueue (smPayload ⟨c.sec + 1, c.min, c.hour⟩)).withClock ⟨c.sec + 1, c.min, c.hour⟩) ∨
    (59 < (c.sec + 1).toNat ∧ (c.min + 1).toNat ≤ 59 ∧
      t = (s.enqueue (smPayload ⟨0, c.min + 1, c.hour⟩)).withClock ⟨0, c.min + 1, c.hour⟩) ∨
    (59 < (c.sec + 1).toNat ∧ 59 < (c.min + 1).toNat ∧ (c.hour + 1).toNat ≤ 12 ∧
      t = ((s.enqueue (hPayload ⟨0, 0, c.hour + 1⟩)).enqueue (smPayload ⟨0, 0, c.hour + 1⟩)).withClock
        ⟨0, 0, c.hour + 1⟩) ∨
    (59 < (c.sec + 1).toNat ∧ 59 < (c.min + 1).toNat ∧ 12 < (c.hour + 1).toNat ∧ hostTimeOk s.nextNow = true ∧
      t = ((((s.afterNow.enqueue (smPayload s.nextClock)).enqueue (hPayload s.nextClock)).enqueue
        (hPayload s.nextClock)).enqueue (smPayload s.nextClock)).withClock s.nextClock) ∨
    (59 < (c.sec + 1).toNat ∧ 59 < (c.min + 1).toNat ∧ 12 < (c.hour + 1).toNat ∧ hostTimeOk s.nextNow = false ∧
      t = s.raiseAt .hostRange s.afterNow) := by
  unfold tickStep at h
  by_cases hs : 59 < (c.sec + 1).toNat
  · simp only [if_pos hs, Host.Outcome.next.injEq] at h
    subst h
    by_cases hm : 59 < (c.min + 1).toNat
    · rw [incMinute_of_gt (c := ⟨0, c.min, c.hour⟩) s hm]
      by_cases hh : 12 < (c.hour + 1).toNat
      · rw [incHour_of_gt (c := ⟨0, 0, c.hour⟩) s hh]
        rcases resync_cases s with ⟨hk, hr⟩ | ⟨hk, hr⟩
        · exact .inr (.inr (.inr (.inl ⟨hs, hm, hh, hk, by rw [hr]; rfl⟩)))
        · exact .inr (.inr (.inr (.inr ⟨hs, hm, hh, hk, by rw [hr]; rfl⟩)))
      · rw [incHour_of_le (c := ⟨0, 0, c.hour⟩) s (Nat.not_lt.mp hh)]
        exact .inr (.inr (.inl ⟨hs, hm, Nat.not_lt.mp hh, rfl⟩))
    · rw [incMinute_of_le (c := ⟨0, c.min, c.hour⟩) s (Nat.not_lt.mp hm)]
      exact .inr (.inl ⟨hs, Nat.not_lt.mp hm, rfl⟩)
  · simp only [if_neg hs] at h
    split at h
    · cases h
    · rename_i hm
      simp only [Host.Outcome.next.injEq] at h
      subst h
      exact .inl ⟨Nat.not_lt.mp hs, Nat.not_lt.mp hm, rfl⟩

/-- TICK (R93, R153). -/
theorem execTick_next {s t : State} (h : execTick s = .next t) :
    s.phase ≠ .fatal ∧
    ((s.wq ≠ [] ∧ t = s.raise .overlap) ∨
     (s.wq = [] ∧ s.phase = .off ∧ t = s.raise .notStarted) ∨
     (s.wq = [] ∧ s.phase = .run ∧ ∃ c, s.clock = some c ∧ tickStep c s = .next t)) := by
  unfold execTick at h
  rw [State.ifNotFatal_next] at h
  obtain ⟨hp, h⟩ := h
  refine ⟨hp, ?_⟩
  split at h
  · rename_i hb
    exact .inl ⟨State.busy_eq_true.mp hb, by simpa using h.symm⟩
  · rename_i hb
    have hw : s.wq = [] := State.busy_eq_false.mp (by simpa using hb)
    split at h
    · rename_i ho
      exact .inr (.inl ⟨hw, ho, by simpa using h.symm⟩)
    · rename_i ho
      have hr : s.phase = .run := by cases hph : s.phase <;> simp_all
      split at h
      · cases h
      · rename_i c hc
        exact .inr (.inr ⟨hw, hr, c, hc, h⟩)

/-- RESYNC (R95, R153). -/
theorem execResync_next {s t : State} (h : execResync s = .next t) :
    s.phase ≠ .fatal ∧
    ((s.wq ≠ [] ∧ t = s.raise .overlap) ∨
     (s.wq = [] ∧ s.phase = .off ∧ t = s.raise .notStarted) ∨
     (s.wq = [] ∧ s.phase = .run ∧ hostTimeOk s.nextNow = false ∧ t = s.raiseAt .hostRange s.afterNow) ∨
     (s.wq = [] ∧ s.phase = .run ∧ hostTimeOk s.nextNow = true ∧
      t = ((s.afterNow.enqueue (smPayload s.nextClock)).enqueue (hPayload s.nextClock)).withClock s.nextClock)) := by
  unfold execResync at h
  rw [State.ifNotFatal_next] at h
  obtain ⟨hp, h⟩ := h
  refine ⟨hp, ?_⟩
  simp only [Host.Outcome.next.injEq] at h
  subst h
  by_cases hw : s.wq = []
  · rw [State.ifNotBusy_of_nil hw]
    split
    · rename_i ho
      exact .inr (.inl ⟨hw, ho, rfl⟩)
    · rename_i ho
      have hr : s.phase = .run := by cases hph : s.phase <;> simp_all
      rcases resync_cases s with ⟨hk, hs⟩ | ⟨hk, hs⟩
      · exact .inr (.inr (.inr ⟨hw, hr, hk, by rw [hs]; rfl⟩))
      · exact .inr (.inr (.inl ⟨hw, hr, hk, by rw [hs]; rfl⟩))
  · rw [State.ifNotBusy_of_ne hw]
    exact .inl ⟨hw, rfl⟩

/-- The state START has reached once both devices are open, before the host clock is read (R92). -/
def State.bothOpened (s : State) : State := (s.afterOpen .a).afterOpen .b

/-- START after both opens (R92, R96): what `resync` makes of it. -/
theorem startDevicesOpen_cases (s0 s : State) :
    (hostTimeOk s.nextNow = true ∧
      startDevicesOpen s0 s =
        { ((((s.afterNow.enqueue (initPayload .a)).enqueue (initPayload .b)).enqueue
            (smPayload s.nextClock)).enqueue (hPayload s.nextClock)).withClock s.nextClock with phase := .run }) ∨
    (hostTimeOk s.nextNow = false ∧ startDevicesOpen s0 s = s0.raiseAt .hostRange s.afterNow) := by
  unfold startDevicesOpen
  rcases resync_cases ((s.enqueue (initPayload .a)).enqueue (initPayload .b)) with ⟨hk, hr⟩ | ⟨hk, hr⟩
  · exact .inl ⟨hk, by rw [hr]; rfl⟩
  · exact .inr ⟨hk, by rw [hr]; rfl⟩

/-- START (R92, R153): the checks in their order, then the start. -/
theorem execStart_next {s t : State} (h : execStart s = .next t) :
    s.phase ≠ .fatal ∧
    ((s.wq ≠ [] ∧ t = s.raise .overlap) ∨
     (s.wq = [] ∧ s.phase = .run ∧ t = s.raise .restart) ∨
     (s.wq = [] ∧ s.phase = .off ∧ s.cfg.addrA = s.cfg.addrB ∧ t = s.raise .config) ∨
     (s.wq = [] ∧ s.phase = .off ∧ s.cfg.addrA ≠ s.cfg.addrB ∧ s.nextOpen .a = .error ∧
      t = s.raiseAt .deviceCreate (s.afterOpen .a)) ∨
     (s.wq = [] ∧ s.phase = .off ∧ s.cfg.addrA ≠ s.cfg.addrB ∧ s.nextOpen .a = .ok ∧
      (s.afterOpen .a).nextOpen .b = .error ∧ t = s.raiseAt .deviceCreate s.bothOpened) ∨
     (s.wq = [] ∧ s.phase = .off ∧ s.cfg.addrA ≠ s.cfg.addrB ∧ s.nextOpen .a = .ok ∧
      (s.afterOpen .a).nextOpen .b = .ok ∧ t = startDevicesOpen s s.bothOpened)) := by
  unfold execStart at h
  rw [State.ifNotFatal_next] at h
  obtain ⟨hp, h⟩ := h
  refine ⟨hp, ?_⟩
  simp only [Host.Outcome.next.injEq] at h
  subst h
  by_cases hw : s.wq = []
  · rw [State.ifNotBusy_of_nil hw]
    unfold startStep
    by_cases hr : s.phase = .run
    · exact .inr (.inl ⟨hw, hr, by rw [if_pos hr]⟩)
    · have ho : s.phase = .off := by cases hph : s.phase <;> simp_all
      rw [if_neg hr]
      by_cases ha : s.cfg.addrA = s.cfg.addrB
      · exact .inr (.inr (.inl ⟨hw, ho, ha, by rw [if_pos ha]⟩))
      · rw [if_neg ha]
        cases hA : s.nextOpen .a with
        | error => exact .inr (.inr (.inr (.inl ⟨hw, ho, ha, rfl, rfl⟩)))
        | ok =>
          cases hB : (s.afterOpen .a).nextOpen .b with
          | error => exact .inr (.inr (.inr (.inr (.inl ⟨hw, ho, ha, rfl, rfl, by simp [hB, State.bothOpened]⟩))))
          | ok => exact .inr (.inr (.inr (.inr (.inr ⟨hw, ho, ha, rfl, rfl, by simp [hB, State.bothOpened]⟩))))
  · rw [State.ifNotBusy_of_ne hw]
    exact .inl ⟨hw, rfl⟩

/-- ENCODE (R80, R82). -/
theorem execEncode_next {n : Byte} {s t : State} (h : execEncode n s = .next t) :
    s.phase ≠ .fatal ∧
    ((n.toNat ≤ 99 ∧ t = s.output (.codec (bcd n.toNat) false)) ∨
     (99 < n.toNat ∧ s.cfg.bcdOor = .fault ∧ t = s.raise .bcdRange) ∨
     (99 < n.toNat ∧ s.cfg.bcdOor = .mask ∧ t = s.output (.codec (bcdMask n.toNat) true))) := by
  unfold execEncode at h
  rw [State.ifNotFatal_next] at h
  obtain ⟨hp, h⟩ := h
  refine ⟨hp, ?_⟩
  simp only [Host.Outcome.next.injEq] at h
  subst h
  unfold encodeStep codecInput oor bcdLimit
  by_cases hn : 99 < n.toNat
  · cases hb : s.cfg.bcdOor <;> simp [hn]
  · simp [hn, Nat.not_lt.mp hn]

/-- INVERT, NOP and a reserved word (R122, R91, R144). -/
theorem execInvert_next {x y : Byte} {s t : State} (h : execInvert x y s = .next t) :
    s.phase ≠ .fatal ∧ t = s.output (.inv (inv x) (inv y)) := by
  unfold execInvert at h
  rw [State.ifNotFatal_next] at h
  exact ⟨h.1, by simpa using h.2.symm⟩

theorem execNop_next {s t : State} (h : execNop s = .next t) : s.phase ≠ .fatal ∧ t = s := by
  unfold execNop at h
  rw [State.ifNotFatal_next] at h
  exact ⟨h.1, by simpa using h.2.symm⟩

theorem execIllegal_next (r : BitVec 5) (o : BitVec 3) {s t : State} (h : execIllegal r o s = .next t) :
    s.phase ≠ .fatal ∧ t = s.raise .illegalCmd := by
  unfold execIllegal at h
  rw [State.ifNotFatal_next] at h
  exact ⟨h.1, by simpa using h.2.symm⟩

/-- The writer agent's turn (R127). -/
theorem writerTurn_next {s t : State} (h : writerTurn s = .next t) :
    s.phase ≠ .fatal ∧
    ((s.wq = [] ∧ t = s) ∨
     (∃ p q, s.wq = p :: q ∧ s.handle p.dev = .opened ∧ t = ({ s with wq := q } : State).sendPayload p)) := by
  unfold writerTurn at h
  rw [State.ifNotFatal_next] at h
  obtain ⟨hp, h⟩ := h
  refine ⟨hp, ?_⟩
  split at h
  · rename_i hw
    exact .inl ⟨hw, by simpa using h.symm⟩
  · rename_i p q hw
    split at h
    · rename_i ho
      exact .inr ⟨p, q, hw, ho, by simpa using h.symm⟩
    · cases h

/-- Every move of a step (R54, R153): an instruction, the writer's turn, or a move of the host. -/
theorem step_next {s t : State} (h : step s = .next t) :
    (∃ x r, s.sched = .present x :: r ∧ exec (decode x) { s with sched := r } = .next t) ∨
    (∃ r, (s.sched = r ∨ s.sched = .drain :: r) ∧ writerTurn { s with sched := r } = .next t) ∨
    (∃ r, s.sched = .wait :: r ∧ (s.phase = .fatal ∨ s.wq = []) ∧ t = { s with sched := r }) ∨
    (∃ a r, s.sched = .answers a :: r ∧ t = { s with sched := r, answers := a }) ∨
    (∃ r, s.sched = .reset :: r ∧ t = ({ s with sched := r } : State).blockReset) := by
  unfold step fetch at h
  split at h
  · rename_i i u hf
    split at hf <;> cases hf
    rename_i x r hs
    exact .inl ⟨x, r, hs, h⟩
  · rename_i o hf
    split at hf <;> cases hf
    · rename_i hs
      refine .inr (.inl ⟨s.sched, .inl rfl, h⟩)
    · rename_i r hs
      exact .inr (.inl ⟨r, .inr hs, h⟩)
    · rename_i r hs
      unfold waitTurn at h
      split at h
      · rename_i hc
        refine .inr (.inr (.inl ⟨r, hs, ?_, by simpa using h.symm⟩))
        rwa [State.busy_eq_false] at hc
      · exact .inr (.inl ⟨s.sched, .inl rfl, h⟩)
    · rename_i a r hs
      exact .inr (.inr (.inr (.inl ⟨a, r, hs, by simpa using h.symm⟩)))
    · rename_i r hs
      exact .inr (.inr (.inr (.inr ⟨r, hs, by simpa using h.symm⟩)))

end Sys2Proof.Machine
end

