-- ==== Sys2Proof/Laws/Invariant.lean ====
section
/-! SUPPORT. The small lemmas of the terms of Safety.lean: ranges, payload kinds, logs, and runs of several steps. -/

namespace Sys2Proof.Machine

/-- What `resync` writes from an answer in contract is in range (R25, R96, R98). -/
theorem clockOf_inRange (fix : Bool) {t : HostTime} (h : hostTimeOk t = true) : (clockOf fix t).InRange fix := by
  obtain ⟨a, b, c⟩ := clockOf_toNat (fix := fix) h
  rw [hostTimeOk_iff] at h
  have := to12_le (fix := fix) h.1
  refine ⟨by omega, by omega, by omega, ?_⟩
  rintro rfl
  have := to12_pos (h := t.h24)
  omega

/-- The registers `resync` would write are in range when the host's answer is in contract. -/
theorem State.nextClock_inRange {s : State} (h : hostTimeOk s.nextNow = true) :
    s.nextClock.InRange s.cfg.midnightFix := clockOf_inRange _ h

/-! ### The payload kinds of R120 -/

theorem smPayload_isKind {c : Clock} (h1 : c.sec.toNat ≤ 59) (h2 : c.min.toNat ≤ 59) :
    (smPayload c).isKind = true := by
  have k : ∀ b : Byte, b.toNat ≤ 59 → bcdAtMost 59 (bcd b.toNat) = true := by decide +kernel
  simp [Payload.isKind, smPayload, k _ h1, k _ h2]

theorem hPayload_isKind {c : Clock} (h : c.hour.toNat ≤ 12) : (hPayload c).isKind = true := by
  have k : ∀ b : Byte, b.toNat ≤ 12 → bcdAtMost 12 (bcd b.toNat) = true := by decide +kernel
  simp [Payload.isKind, hPayload, k _ h]

theorem initPayload_isKind (d : Device) : (initPayload d).isKind = true := by cases d <;> decide

/-! ### Logs -/

theorem lastWritten_append (d : Device) (l m : List Event) :
    lastWritten d (l ++ m) = (lastWritten d m).or (lastWritten d l) := by
  induction l with
  | nil => simp [lastWritten]
  | cons e es ih =>
    cases e with
    | write t a w0 w1 r =>
      simp only [List.cons_append, lastWritten, ih]
      cases lastWritten d m <;> cases lastWritten d es <;> simp
    | _ => simp [lastWritten, ih]

theorem wireWrites_append (l m : List Event) : wireWrites (l ++ m) = wireWrites l ++ wireWrites m := by
  induction l with
  | nil => rfl
  | cons e es ih => cases e <;> simp [wireWrites, ih]

/-! ### Runs -/

theorem run_zero (s : State) : Sys2Proof.core.run 0 s = .next s := rfl

theorem run_succ_of_next {s t : State} (k : Nat) (h : step s = .next t) :
    Sys2Proof.core.run (k + 1) s = Sys2Proof.core.run k t := by
  have h' : Sys2Proof.core.step s = .next t := h
  simp only [Host.Core.run, h']

end Sys2Proof.Machine
end

