-- ==== Sys2Proof/Laws/PerInstr.lean ====
section
/-! SUPPORT. The family `Format`: each instruction's words are a strobe of the port the opcode table's format column
names, and they are decoded on that port (R60, R61, R66, R69). -/

namespace Sys2Proof.Laws.Format

/-- An instruction's words are on the port of its format, and its bytes with more bytes behind them are read as
those words and leave the rest. -/
def Statement (i : Instr) : Prop :=
  (encode i).port = i.format ∧
    ∀ rest, strobeOfBytes i.format ((encode i).bytes ++ rest) = .ok (encode i, rest)

theorem nop : Statement .nop := ⟨rfl, fun _ => rfl⟩
theorem start : Statement .start := ⟨rfl, fun _ => rfl⟩
theorem tick : Statement .tick := ⟨rfl, fun _ => rfl⟩
theorem resync : Statement .resync := ⟨rfl, fun _ => rfl⟩
theorem encode (n : Byte) : Statement (.encode n) := ⟨rfl, fun _ => rfl⟩
theorem invert (in0 in1 : Byte) : Statement (.invert in0 in1) := ⟨rfl, fun _ => rfl⟩
theorem illegal (rsv : BitVec 5) (op : BitVec 3) : Statement (.illegal rsv op) := ⟨rfl, fun _ => rfl⟩

end Sys2Proof.Laws.Format
end

