-- ==== Sys2Proof/Tests/Slice0.lean ====
section
/-! SUPPORT. Small tests, their expected values taken from the spec's own tables (95_test_vectors.md) and worked
examples, and for each statement with hypotheses a state that meets them. -/

namespace Sys2Proof.Tests

open Sys2Proof Sys2Proof.Machine

/-! ### Small states -/

/-- The configuration of the spec's programs (95 section 3): addresses 0x20 and 0x21, both defaults. -/
def testCfg : Params :=
  { (default : Params) with addrA := 0x20#7, addrB := 0x21#7, midnightFix := true, bcdOor := .fault
                            exitConfig := 1, exitDevice := 2 }

/-- From reset, the host about to give some answers. -/
def offWith (a : Answers) : State := { State.reset with cfg := testCfg, answers := a }

/-- In phase RUN, idle, with some registers. -/
def runAt (c : Clock) : State :=
  { State.reset with cfg := testCfg, clock := some c, phase := .run, handleA := .opened, handleB := .opened }

/-- The same, the host clock about to answer. -/
def runAtNow (c : Clock) (now : HostTime) : State := { runAt c with answers := ⟨[now], [], []⟩ }

/-- The same, with entries waiting. -/
def busyAt (c : Clock) (q : List Payload) : State := { runAt c with wq := q }

/-- In phase FATAL with a schedule. -/
def fatalWith (r : List Stimulus) : State :=
  { runAt ⟨1, 2, 3⟩ with phase := .fatal, fault := true, fcode := .restart, sched := r }

/-- A time that is in range. -/
def noon : HostTime := ⟨12, 0, 0⟩

/-- Answers with which START succeeds: both opens `ok` and a time. -/
def goodStart (now : HostTime) : Answers := ⟨[now], [.ok, .ok], []⟩

/-- A field of the next state, if there is one. -/
def after (o : Result) (f : State → α) : Option α :=
  match o with
  | .next t => some (f t)
  | .fault _ => none
  | .refused _ => none

/-! ### WellFormed: the one check refuses -/

theorem test_wf_refuses_used_word : (Instr.illegal 0b00000#5 0b011#3).wf = false := by decide
theorem test_wf_accepts_reserved : (Instr.illegal 0b00000#5 0b100#3).wf = true := by decide

/-! ### Decoding, words written out from R62, R63, R66, R69 -/

theorem test_decode_nop : decodeTableWord 8 0b00000000 = some .nop := by decide
theorem test_decode_start : decodeTableWord 8 0b00000001 = some .start := by decide
theorem test_decode_tick : decodeTableWord 8 0b00000010 = some .tick := by decide
theorem test_decode_resync : decodeTableWord 8 0b00000011 = some .resync := by decide
theorem test_decode_op7 : decodeTableWord 8 0b00000111 = some (.illegal 0b00000#5 0b111#3) := by decide
theorem test_decode_rsv : decodeTableWord 8 0b00001000 = some (.illegal 0b00001#5 0b000#3) := by decide
theorem test_decode_codec : decodeBytes .codec [0b00111011#8] = .ok (.encode 59#8, []) := by decide
theorem test_decode_inv :
    decodeBytes .inv [0b01011001#8, 0b00000000#8] = .ok (.invert 0x59#8 0x00#8, []) := by decide
theorem test_encode_illegal : encode (.illegal 0b00001#5 0b010#3) = .cmd 0b00001010#8 := by decide

/-- An instruction placed by its table word runs at the very next step, as the first after reset (log 5, log 10). -/
theorem test_placed_start_runs :
    after (step (State.reset.withFetchWord 8 1)) (fun _ => true) = some true := by decide
theorem test_placed_tick_runs : after (step (State.reset.withFetchWord 8 2)) State.status = some 0x2A#8 := by decide

/-! ### NOP and reserved words (95 section 2.7) -/

theorem test_nop_busy_status :
    after (exec .nop (busyAt ⟨5, 6, 7⟩ [initPayload .a])) State.status = some 0x05#8 := by decide
theorem test_illegal_from_reset : after (exec (.illegal 0#5 4#3) State.reset) State.status = some 0x1A#8 := by decide
theorem test_illegal_busy :
    after (exec (.illegal 1#5 2#3) (busyAt ⟨5, 6, 7⟩ [initPayload .a])) State.status = some 0x1E#8 := by decide

/-! ### START (95 section 2.6) -/

theorem test_start_st1 :
    after (exec .start (offWith (goodStart ⟨14, 30, 58⟩))) (fun t => (t.clock, t.status, t.wq)) =
      some (some ⟨58, 30, 2⟩, 0x05#8,
        [⟨.a, 0xFF#8, 0xFF#8⟩, ⟨.b, 0xFF#8, 0xFF#8⟩, ⟨.a, 0x58#8, 0x30#8⟩, ⟨.b, 0x02#8, 0xFF#8⟩]) := by decide
theorem test_start_st4 :
    after (exec .start (offWith ⟨[], [.ok, .error], []⟩)) (fun t => (t.status, t.log, t.handleA)) =
      some (0x6A#8, [.open .a .ok, .open .b .error], .closed) := by decide

/-! ### TICK (95 section 2.4) -/

theorem test_tick_t3c :
    after (exec .tick (runAt ⟨59, 59, 11⟩)) (fun t => (t.clock, t.wq)) =
      some (some ⟨0, 0, 12⟩, [⟨.b, 0x12#8, 0xFF#8⟩, ⟨.a, 0x00#8, 0x00#8⟩]) := by decide
theorem test_tick_t4e :
    after (exec .tick (runAtNow ⟨59, 59, 12⟩ ⟨12, 34, 56⟩)) (fun t => (t.clock, t.wq)) =
      some (some ⟨56, 34, 12⟩, [⟨.a, 0x56#8, 0x34#8⟩, ⟨.b, 0x12#8, 0xFF#8⟩, ⟨.b, 0x12#8, 0xFF#8⟩,
        ⟨.a, 0x56#8, 0x34#8⟩]) := by decide

/-! ### RESYNC (95 section 2.5) -/

theorem test_resync_rs1 :
    after (exec .resync (runAtNow ⟨10, 20, 3⟩ ⟨15, 45, 0⟩)) (fun t => (t.clock, t.wq)) =
      some (some ⟨0, 45, 3⟩, [⟨.a, 0x00#8, 0x45#8⟩, ⟨.b, 0x03#8, 0xFF#8⟩]) := by decide
theorem test_resync_rs7 :
    after (exec .resync (runAtNow ⟨1, 2, 3⟩ ⟨10, 0, 60⟩)) (fun t => (t.clock, t.status, t.wq)) =
      some (some ⟨1, 2, 3⟩, 0x7A#8, []) := by decide

/-! ### ENCODE and INVERT (95 sections 2.1, 2.2) -/

theorem test_encode_59 : after (exec (.encode 59#8) State.reset) State.outs = some [.codec 0x59#8 false] := by decide
theorem test_encode_159_mask :
    after (exec (.encode 159#8) { offWith ⟨[], [], []⟩ with cfg := { testCfg with bcdOor := .mask } }) State.outs =
      some [.codec 0xF9#8 true] := by decide
theorem test_encode_100_busy :
    after (exec (.encode 100#8) (busyAt ⟨1, 2, 3⟩ [initPayload .a])) (fun t => (t.status, t.outs)) =
      some (0x8E#8, []) := by decide
theorem test_invert_12 :
    after (exec (.invert 0x12#8 0xFF#8) State.reset) State.outs = some [.inv 0xED#8 0x00#8] := by decide

/-! ### The writer agent (95 section 2.8) and the program text (R72) -/

theorem test_writer_short :
    after (writerTurn { busyAt ⟨58, 30, 2⟩ [⟨.a, 0x58#8, 0x30#8⟩] with answers := ⟨[], [], [.short 1]⟩ })
      (fun t => (t.log, t.latchA, t.status)) =
      some ([.write .a 0x20#7 0xA7#8 0xCF#8 (.short 1)], .unknown, 0x01#8) := by decide
theorem test_writer_ok :
    after (writerTurn { busyAt ⟨58, 30, 2⟩ [⟨.b, 0x02#8, 0xFF#8⟩] with answers := ⟨[], [], [.ok]⟩ })
      (fun t => (t.latchB, t.wq)) = some (.holds 0xFD#8 0x00#8, []) := by decide
theorem test_text_start :
    assembleText "START ; now=10:15:30 w3=ERR CMD 0x01\nINVERT 0x59, 0".toList =
      .ok [.answers ⟨[⟨10, 15, 30⟩], [.ok, .ok], [.ok, .ok, .err, .ok]⟩, .present (.cmd 1#8), .wait,
        .present (.inv 0x59#8 0x00#8)] := by decide
theorem test_text_numbers : (assembleText "CMD 7\nINVERT 0xa, 0X1".toList = .error (.badLine 2)) ∧
    (assembleText "TICKS 0x2".toList = assemble [.ticks 2]) := by decide
theorem test_text_stray_nowait : assembleText "WAIT\nNOWAIT".toList = .error .strayNowait := by decide

/-! ### The end of a run and the host's first duty (70 R180, 60 R158; log 21) -/

theorem test_ends_well_before_reset : ({ runAt ⟨1, 2, 3⟩ with sched := [.wait, .reset, .present (.cmd 1#8)] } : State).EndsWell ∧
    ¬ ({ runAt ⟨1, 2, 3⟩ with sched := [.wait, .present (.cmd 0#8)] } : State).EndsWell := by decide
theorem test_start_duty_each_run :
    keepsStartDuty [.present (.cmd 1#8), .reset, .wait, .present (.cmd 1#8)] = true ∧
    keepsStartDuty [.present (.cmd 1#8), .reset, .present (.cmd 2#8)] = false ∧
    keepsStartDuty [.present (.cmd 1#8), .present (.cmd 1#8)] = false := by decide

/-! ### Witnesses: the hypotheses of each statement can be met -/

theorem wit_DecodeInvertsEncode : (Instr.illegal 31#5 7#3).wf = true ∧ (Instr.encode 255#8).wf = true := by decide

theorem wit_StepRunsPresentedInstruction :
    ({ runAt ⟨1, 2, 3⟩ with sched := [.present (.cmd 2#8)] } : State).sched = .present (.cmd 2#8) :: [] := rfl

theorem wit_StepOfOtherMoves :
    (runAt ⟨1, 2, 3⟩).sched = [] ∧
    ({ runAt ⟨1, 2, 3⟩ with sched := [.drain] } : State).sched = .drain :: [] ∧
    (let s := { busyAt ⟨1, 2, 3⟩ [initPayload .a] with sched := [.wait] };
      s.sched = .wait :: [] ∧ s.phase ≠ .fatal ∧ s.wq ≠ []) ∧
    (fatalWith [.wait]).sched = .wait :: [] ∧ (fatalWith [.wait]).phase = .fatal ∧
    ({ runAt ⟨1, 2, 3⟩ with sched := [.answers ⟨[], [], []⟩] } : State).sched = .answers ⟨[], [], []⟩ :: [] ∧
    (runAt ⟨1, 2, 3⟩).phase ≠ .fatal ∧ (runAt ⟨1, 2, 3⟩).wq = [] := by decide

theorem wit_BlockResetKeepsOnlyTheLatches : (fatalWith [.reset]).sched = .reset :: [] := rfl

theorem wit_FatalHaltsEveryAgent :
    (fatalWith []).phase = .fatal ∧ (fatalWith []).sched = [] ∧
    (fatalWith [.drain]).phase = .fatal ∧ (fatalWith [.drain]).sched = .drain :: [] ∧
    (fatalWith [.present (.codec 5#8)]).phase = .fatal ∧
    (fatalWith [.present (.codec 5#8)]).sched = .present (.codec 5#8) :: [] := by decide

theorem wit_ReservedWordRaisesIllegal :
    State.reset.phase ≠ .fatal ∧ 4 ≤ (4#8).toNat ∧
    ({ State.reset with sched := [.present (.cmd 4#8)] } : State).sched = .present (.cmd 4#8) :: [] ∧
    4 ≤ (255#8).toNat := by decide

theorem wit_CommandWhileBusyOverlaps :
    (busyAt ⟨1, 2, 3⟩ [initPayload .a]).phase ≠ .fatal ∧ (busyAt ⟨1, 2, 3⟩ [initPayload .a]).busy = true := by decide

theorem wit_TickOrResyncBeforeStart : State.reset.phase = .off ∧ State.reset.wq = [] := by decide

theorem wit_StartWhileRunningRestarts : (runAt ⟨1, 2, 3⟩).phase = .run ∧ (runAt ⟨1, 2, 3⟩).wq = [] := by decide

theorem wit_StartWithEqualAddresses :
    let s := { offWith ⟨[], [], []⟩ with cfg := { testCfg with addrB := 0x20#7 } }
    s.phase = .off ∧ s.wq = [] ∧ s.cfg.addrA = s.cfg.addrB := by decide

theorem wit_StartWithoutADevice_first :
    let s := offWith ⟨[], [.error], []⟩
    s.phase = .off ∧ s.wq = [] ∧ s.fault = false ∧ s.cfg.addrA ≠ s.cfg.addrB ∧ s.nextOpen .a = .error := by decide

theorem wit_StartWithoutADevice_second :
    let s := offWith ⟨[], [.ok, .error], []⟩
    s.phase = .off ∧ s.wq = [] ∧ s.fault = false ∧ s.cfg.addrA ≠ s.cfg.addrB ∧ s.nextOpen .a = .ok ∧
      (s.afterOpen .a).nextOpen .b = .error := by decide

theorem wit_HostRangeUndoesTheCommand_tick :
    let s := runAtNow ⟨59, 59, 12⟩ ⟨24, 0, 0⟩
    s.wq = [] ∧ s.fault = false ∧ s.phase = .run ∧ s.clock = some ⟨59#8, 59#8, 12#8⟩ ∧
      ¬ (s.nextNow.h24 ≤ 23 ∧ s.nextNow.m ≤ 59 ∧ s.nextNow.s ≤ 59) := by decide

theorem wit_HostRangeUndoesTheCommand_start :
    let s := offWith (goodStart ⟨12, 60, 0⟩)
    s.wq = [] ∧ s.fault = false ∧ s.phase = .off ∧ s.cfg.addrA ≠ s.cfg.addrB ∧ s.nextOpen .a = .ok ∧
      (s.afterOpen .a).nextOpen .b = .ok ∧
      ¬ (((s.afterOpen .a).afterOpen .b).nextNow.h24 ≤ 23 ∧ ((s.afterOpen .a).afterOpen .b).nextNow.m ≤ 59 ∧
        ((s.afterOpen .a).afterOpen .b).nextNow.s ≤ 59) := by decide

theorem wit_FaultCodesHaveTheirCauses :
    State.reset.fault = false ∧ after (exec .tick State.reset) State.fault = some true ∧
    (runAtNow ⟨59, 59, 12⟩ ⟨24, 0, 0⟩).fault = false ∧
    after (exec .tick (runAtNow ⟨59, 59, 12⟩ ⟨24, 0, 0⟩)) (fun t => (t.fault, t.fcode)) = some (true, .hostRange) ∧
    (⟨59, 59, 12⟩ : Clock).InRange (runAtNow ⟨59, 59, 12⟩ ⟨24, 0, 0⟩).cfg.midnightFix := by decide

theorem wit_NopChangesNothing : State.reset.phase ≠ .fatal := by decide

theorem wit_StartCompletes :
    let s := offWith (goodStart ⟨23, 59, 59⟩)
    s.phase = .off ∧ s.wq = [] ∧ s.cfg.addrA ≠ s.cfg.addrB ∧ s.nextOpen .a = .ok ∧ (s.afterOpen .a).nextOpen .b = .ok ∧
      ((s.afterOpen .a).afterOpen .b).nextNow = ⟨23, 59, 59⟩ := by decide

theorem wit_TickWithoutCarry :
    let s := runAt ⟨58, 59, 12⟩
    s.phase = .run ∧ s.wq = [] ∧ s.clock = some ⟨58, 59, 12⟩ ∧ (58#8).toNat ≤ 58 ∧ (59#8).toNat ≤ 59 := by decide

theorem wit_TickWithMinuteIncrement :
    let s := runAt ⟨59, 58, 12⟩
    s.phase = .run ∧ s.wq = [] ∧ s.clock = some ⟨59, 58, 12⟩ ∧ (59#8).toNat = 59 ∧ (58#8).toNat ≤ 58 := by decide

theorem wit_TickWithHourIncrement :
    let s := runAt ⟨59, 59, 0⟩
    s.phase = .run ∧ s.wq = [] ∧ s.clock = some ⟨59, 59, 0⟩ ∧ (59#8).toNat = 59 ∧ (0#8).toNat ≤ 11 := by decide

theorem wit_TickWithHourWrap :
    let s := runAtNow ⟨59, 59, 12⟩ ⟨0, 0, 0⟩
    s.phase = .run ∧ s.wq = [] ∧ s.clock = some ⟨59, 59, 12⟩ ∧ s.nextNow = ⟨0, 0, 0⟩ := by decide

theorem wit_ModelFaultsStopByName_noValue :
    let s := { State.reset with phase := .run }
    s.phase = .run ∧ s.wq = [] ∧ s.clock = none := by decide

theorem wit_ModelFaultsStopByName_bcd :
    let s := runAt ⟨58, 100, 1⟩
    s.phase = .run ∧ s.wq = [] ∧ s.clock = some ⟨58, 100, 1⟩ ∧ (58#8).toNat ≤ 58 ∧ 99 < (100#8).toNat := by decide

theorem wit_ModelFaultsStopByName_handle :
    let s := { State.reset with wq := [initPayload .b] }
    s.phase ≠ .fatal ∧ s.wq = initPayload .b :: [] ∧ s.handle (initPayload .b).dev = .closed := by decide

theorem wit_ResyncCompletes :
    let s := runAtNow ⟨1, 2, 3⟩ ⟨23, 59, 59⟩
    s.phase = .run ∧ s.wq = [] ∧ s.nextNow = ⟨23, 59, 59⟩ := by decide

theorem wit_HostRangeUndoesTheCommand_resync :
    let s := runAtNow ⟨1, 2, 3⟩ ⟨23, 59, 60⟩
    s.wq = [] ∧ s.fault = false ∧ s.phase = .run ∧ ¬ (s.nextNow.h24 ≤ 23 ∧ s.nextNow.m ≤ 59 ∧ s.nextNow.s ≤ 59) := by
  decide

theorem wit_EncodeFollowsItsRule :
    (fatalWith []).phase = .fatal ∧ State.reset.phase ≠ .fatal ∧ (99#8).toNat ≤ 99 ∧ 99 < (100#8).toNat ∧
    State.reset.cfg.bcdOor = .fault ∧
    ({ State.reset with cfg := { testCfg with bcdOor := .mask } } : State).cfg.bcdOor = .mask := by decide

theorem wit_InvertFollowsItsRule :
    (fatalWith []).phase = .fatal ∧ State.reset.phase ≠ .fatal ∧ (runAt ⟨1, 2, 3⟩).phase ≠ .fatal := by decide

theorem wit_InRange : (⟨0, 0, 1⟩ : Clock).InRange true ∧ (⟨59, 59, 12⟩ : Clock).InRange true ∧
    (⟨0, 0, 0⟩ : Clock).InRange false := by decide

theorem wit_HostAnswersAreLogged :
    (offWith ⟨[], [.ok], []⟩).nextOpen .a = .ok ∧ (offWith ⟨[], [.error], []⟩).nextOpen .b = .error := by decide

theorem wit_LatchFollowsWriteResult :
    (offWith ⟨[], [], [.ok]⟩).nextWrite = .ok ∧ (offWith ⟨[], [], [.short 1]⟩).nextWrite ≠ .ok ∧
    (offWith ⟨[], [], [.err]⟩).nextWrite ≠ .ok := by decide

theorem wit_WriterSendsTheHead :
    let s := busyAt ⟨1, 2, 3⟩ [initPayload .a, initPayload .b]
    s.wq = initPayload .a :: [initPayload .b] ∧ s.phase ≠ .fatal ∧ s.handle (initPayload .a).dev = .opened ∧
    ({ s with phase := .fatal } : State).phase = .fatal := by decide

theorem wit_WriteResultLeavesTheBlock :
    ∃ t, writerTurn { busyAt ⟨1, 2, 3⟩ [initPayload .a] with answers := ⟨[], [], [.err]⟩ } = .next t := ⟨_, rfl⟩

theorem wit_PortOperationsFrame :
    (∃ t, exec (.encode 5#8) State.reset = .next t) ∧ (∃ t, exec (.invert 5#8 6#8) State.reset = .next t) ∧
    (∃ t, exec .nop State.reset = .next t) ∧ (∃ t, exec (.illegal 0#5 4#3) State.reset = .next t) :=
  ⟨⟨_, rfl⟩, ⟨_, rfl⟩, ⟨_, rfl⟩, ⟨_, rfl⟩⟩

theorem wit_ClockCommandsFrame :
    (∃ t, exec .start (offWith (goodStart noon)) = .next t ∧ t.phase ≠ .fatal) ∧
    (∃ t, exec .tick (runAt ⟨1, 2, 3⟩) = .next t ∧ t.phase ≠ .fatal) ∧
    (∃ t, exec .resync (runAtNow ⟨1, 2, 3⟩ noon) = .next t ∧ t.phase ≠ .fatal) ∧
    (∃ t, exec .tick State.reset = .next t ∧ t.phase = .fatal) :=
  ⟨⟨_, rfl, by decide⟩, ⟨_, rfl, by decide⟩, ⟨_, rfl, by decide⟩, ⟨_, rfl, by decide⟩⟩

theorem wit_OnlyStartOpensHandles :
    (∃ t, step { offWith (goodStart noon) with sched := [.present (.cmd 1#8)] } = .next t ∧
      (offWith (goodStart noon)).handle .a = .closed ∧ t.handle .a = .opened) ∧
    (∃ t, step { runAt ⟨1, 2, 3⟩ with sched := [.present (.cmd 2#8)] } = .next t ∧
      (runAt ⟨1, 2, 3⟩).handle .b = .opened) :=
  ⟨⟨_, rfl, by decide⟩, ⟨_, rfl, by decide⟩⟩

theorem wit_UnreadParametersChangeNothing :
    let s := { offWith (goodStart noon) with sched := [.present (.cmd 1#8)] }
    2 ≤ s.answers.opens.length ∧ ∃ t, step s = .next t ∧ t.openCalls = [(s.cfg.bus, 0x20#7), (s.cfg.bus, 0x21#7)] :=
  ⟨by decide, _, rfl, rfl⟩

theorem wit_TickEmissionCounts :
    ∃ t, exec .tick (runAtNow ⟨59, 59, 12⟩ noon) = .next t ∧ t.phase = .run ∧
      (⟨59, 59, 12⟩ : Clock).InRange (runAtNow ⟨59, 59, 12⟩ noon).cfg.midnightFix := ⟨_, rfl, by decide⟩

/-- The other cases of R103: T1, T2 and T3. -/
theorem wit_TickEmissionCounts_cases :
    (∃ t, exec .tick (runAt ⟨58, 59, 12⟩) = .next t ∧ t.phase = .run ∧ (⟨58, 59, 12⟩ : Clock).InRange true) ∧
    (∃ t, exec .tick (runAt ⟨59, 58, 12⟩) = .next t ∧ t.phase = .run ∧ (⟨59, 58, 12⟩ : Clock).InRange true) ∧
    (∃ t, exec .tick (runAt ⟨59, 59, 11⟩) = .next t ∧ t.phase = .run ∧ (⟨59, 59, 11⟩ : Clock).InRange true) :=
  ⟨⟨_, rfl, by decide⟩, ⟨_, rfl, by decide⟩, ⟨_, rfl, by decide⟩⟩

theorem wit_EmissionsShowTheEndState :
    ∃ t, exec .start (offWith (goodStart noon)) = .next t ∧ (offWith (goodStart noon)).wq = [] ∧ t.phase = .run :=
  ⟨_, rfl, by decide⟩

theorem wit_StepKeepsInvariant :
    ({ runAt ⟨59, 59, 11⟩ with sched := [.present (.cmd 2#8)] } : State).Inv ∧
    ∃ t, step { runAt ⟨59, 59, 11⟩ with sched := [.present (.cmd 2#8)] } = .next t := ⟨by decide, _, rfl⟩

theorem wit_PhaseMovesOnlyAsStated :
    ({ offWith (goodStart noon) with sched := [.present (.cmd 1#8)] } : State).StatusOk ∧
    ∃ t, step { offWith (goodStart noon) with sched := [.present (.cmd 1#8)] } = .next t ∧ t.phase = .run :=
  ⟨by decide, _, rfl, by decide⟩

theorem wit_OnlyResetLeavesFatal :
    (∃ t, (fatalWith [.reset]).phase = .fatal ∧ step (fatalWith [.reset]) = .next t) ∧
    (∃ t, (fatalWith [.wait]).phase = .fatal ∧ step (fatalWith [.wait]) = .next t) :=
  ⟨⟨_, by decide, rfl⟩, ⟨_, by decide, rfl⟩⟩

theorem wit_NoModelFaultFromInvariant :
    (runAt ⟨59, 59, 12⟩).Inv ∧ (runAt ⟨59, 59, 12⟩).phase ≠ .fatal ∧
    (busyAt ⟨1, 2, 3⟩ [smPayload ⟨1, 2, 3⟩]).Inv ∧ State.reset.Inv := by decide

theorem wit_StatusValuesAreThoseListed :
    (fatalWith []).Inv ∧ (fatalWith []).status = 0x3A#8 ∧ (busyAt ⟨1, 2, 3⟩ [initPayload .b]).Inv ∧
    (let s := { fatalWith [] with wq := [initPayload .a], fcode := .overlap }; s.Inv ∧ s.status = 0x4E#8) := by decide

theorem wit_HostDutyAvoidsOverlap :
    (let s := { runAt ⟨1, 2, 3⟩ with sched := [.present (.cmd 2#8)] };
      s.keepsOverlapDuty = true ∧ s.fcode ≠ .overlap) ∧
    ∃ t, step { runAt ⟨1, 2, 3⟩ with sched := [.present (.cmd 2#8)] } = .next t := ⟨by decide, _, rfl⟩

theorem wit_StepKeepsLatchesFollowingLog :
    State.reset.LatchesFollowLog ∧ ∃ t, step State.reset = .next t :=
  ⟨fun _ _ h => by simp [State.reset, lastWritten] at h, _, rfl⟩

theorem wit_LogOnlyGrows :
    (∃ t, step (busyAt ⟨1, 2, 3⟩ [initPayload .a]) = .next t) ∧
    ∀ r, (busyAt ⟨1, 2, 3⟩ [initPayload .a]).sched ≠ .reset :: r := ⟨⟨_, rfl⟩, fun _ h => by cases h⟩

theorem wit_WriterDrainsQueueInOrder :
    let s := busyAt ⟨1, 2, 3⟩ [hPayload ⟨1, 2, 3⟩, smPayload ⟨1, 2, 3⟩]
    s.Inv ∧ s.phase = .run ∧ s.sched = [] := by decide

theorem wit_DrainedLatchesShowLastPayloads :
    (let s := { busyAt ⟨1, 2, 3⟩ [smPayload ⟨1, 2, 3⟩] with answers := ⟨[], [], [.ok, .err]⟩ };
      s.Inv ∧ s.phase = .run ∧ s.sched = [] ∧ List.replicate s.wq.length .ok <+: s.answers.writes) ∧
    ∃ t, Sys2Proof.core.run 1 { busyAt ⟨1, 2, 3⟩ [smPayload ⟨1, 2, 3⟩] with answers := ⟨[], [], [.ok, .err]⟩ } = .next t :=
  ⟨by decide, _, rfl⟩

theorem wit_SixtyTicksAdvanceTheMinute :
    let s := { runAt ⟨17, 59, 5⟩ with sched := presentTicks 60 }
    s.Inv ∧ s.phase = .run ∧ s.clock = some ⟨17, 59, 5⟩ ∧ s.wq = [] ∧ s.sched = presentTicks 60 ∧
      ¬ (59#8 = 59#8 ∧ 5#8 = 12#8) :=
  ⟨by decide, rfl, rfl, rfl, rfl, by decide⟩

theorem wit_AssemblerPlacesWaits :
    (assemble [.encode 5#8] = .ok [.present (.codec 5#8)]) ∧ (([.encode 5#8] : List Line).head? ≠ some .nowait) ∧
    (∀ w a, Line.encode 5#8 ≠ .command w a) ∧ (Line.encode 5#8 ≠ .ticks 0) :=
  ⟨by decide, by decide, nofun, by decide⟩

/-- `NOWAIT` puts nothing between two commands, and `TICKS 2` is two of TICK and WAIT (R73, R74; log 20). -/
theorem test_nowait_and_ticks :
    (assembleText "NOP\nNOWAIT\nNOP".toList = .ok [.present (.cmd 0#8), .present (.cmd 0#8), .wait]) ∧
    (assemble [.ticks 2] = .ok (presentTicks 2)) := by decide

end Sys2Proof.Tests
end

section
/-! The state at reset: what its `STATUS` byte reads, and R38. -/

namespace Sys2Proof.Machine

/-- The `STATUS` byte reads 0x00 when PHASE is OFF, FAULT is 0, FCODE is NONE and, for BUSY, `WQ` is empty (R27, R29). -/
theorem State.status_eq_zero {s : State} (hphase : s.phase = .off) (hfault : s.fault = false)
    (hfcode : s.fcode = .none) (hwq : s.wq = []) : s.status = 0x00#8 := by
  have hbusy : s.busy = false := State.busy_eq_false.mpr hwq
  rw [State.status, hphase, hfault, hfcode, hbusy]
  decide

/-- Settles O7: the fields are those of `State.reset` (R38); the byte and BUSY follow from them by R27 and R29. -/
theorem resetLeavesTheStatedState : Obligations.ResetLeavesTheStatedState := by
  have hstatus : State.reset.status = 0x00#8 := State.status_eq_zero rfl rfl rfl rfl
  have hbusy : State.reset.busy = false := State.busy_eq_false.mpr rfl
  exact ⟨rfl, hstatus, rfl, hbusy, rfl, rfl, rfl, rfl, rfl, rfl, rfl, rfl⟩

end Sys2Proof.Machine
end

section
/-! The latches after a write to the bus (R52). -/

namespace Sys2Proof.Machine

@[simp] theorem latchAfter_ok (w0 w1 : Byte) : latchAfter w0 w1 .ok = .holds w0 w1 := rfl

/-- SHORT and ERR are the two answers other than OK, and both leave the latch unknown (R52). -/
theorem latchAfter_of_ne_ok {r : WriteResult} (w0 w1 : Byte) (h : r ≠ .ok) : latchAfter w0 w1 r = .unknown := by
  cases r with
  | ok => exact absurd rfl h
  | short _ => rfl
  | err => rfl

theorem State.latch_busWrite_self (s : State) (d : Device) (w0 w1 : Byte) :
    (s.busWrite d w0 w1).latch d = latchAfter w0 w1 s.nextWrite := by
  rw [State.latch_busWrite, if_pos rfl]

theorem State.latch_busWrite_of_ne (s : State) {d e : Device} (w0 w1 : Byte) (h : e ≠ d) :
    (s.busWrite d w0 w1).latch e = s.latch e := by
  rw [State.latch_busWrite, if_neg h.symm]

/-- Settles O39: the written latch follows the answer by `latchAfter`, and the write does not reach the other latch. -/
theorem latchFollowsWriteResult : Obligations.LatchFollowsWriteResult := by
  intro s d w0 w1
  refine ⟨fun hok => ?ok, fun hne => ?notOk, fun e he => ?other⟩
  case ok => rw [State.latch_busWrite_self, hok, latchAfter_ok]
  case notOk => rw [State.latch_busWrite_self, latchAfter_of_ne_ok w0 w1 hne]
  case other => exact s.latch_busWrite_of_ne w0 w1 he

end Sys2Proof.Machine
end

section
/-! The two fields of a command word as numbers (R61), and the decoding formula of R65. -/

namespace Sys2Proof

theorem toNat_rsvField (c : Byte) : (rsvField c).toNat = c.toNat / 8 := by
  have hlt : c.toNat < 256 := c.isLt
  rw [rsvField, BitVec.extractLsb'_toNat, Nat.shiftRight_eq_div_pow]
  omega

theorem toNat_opField (c : Byte) : (opField c).toNat = c.toNat % 8 := by
  rw [opField, BitVec.extractLsb'_toNat, Nat.shiftRight_zero]

theorem rsvField_eq_ofNat (c : Byte) : rsvField c = BitVec.ofNat 5 (c.toNat / 8) := by
  rw [← toNat_rsvField, BitVec.ofNat_toNat, BitVec.setWidth_eq]

theorem opField_eq_ofNat (c : Byte) : opField c = BitVec.ofNat 3 (c.toNat % 8) := by
  rw [← toNat_opField, BitVec.ofNat_toNat, BitVec.setWidth_eq]

/-- RSV of a command word is compared with a value as the number `c / 8`. -/
theorem rsvField_eq_iff (c : Byte) (r : BitVec 5) : rsvField c = r ↔ c.toNat / 8 = r.toNat := by
  rw [← toNat_rsvField, BitVec.toNat_inj]

/-- OP of a command word is compared with a value as the number `c % 8`. -/
theorem opField_eq_iff (c : Byte) (op : BitVec 3) : opField c = op ↔ c.toNat % 8 = op.toNat := by
  rw [← toNat_opField, BitVec.toNat_inj]

/-- Settles O3: `decodeCmd` has the branches of R65 in the same order, so only its tests and the fields that
`illegal` carries are to be read as numbers. -/
theorem commandDecodeFormula : Obligations.CommandDecodeFormula := by
  intro c
  have hillegal : Instr.illegal (rsvField c) (opField c) =
      .illegal (BitVec.ofNat 5 (c.toNat / 8)) (BitVec.ofNat 3 (c.toNat % 8)) := by
    rw [← rsvField_eq_ofNat, ← opField_eq_ofNat]
  exact if_congr (rsvField_eq_iff c 0).not hillegal <|
    if_congr (opField_eq_iff c 0) rfl <| if_congr (opField_eq_iff c 1) rfl <|
    if_congr (opField_eq_iff c 2) rfl <| if_congr (opField_eq_iff c 3) rfl hillegal

end Sys2Proof
end

section
/-! The nibbles of a BCD code and its decoding (R81, R86, R87). -/

namespace Sys2Proof.Machine

theorem tensNibble_eq_div (q : Byte) : tensNibble q = q.toNat / 16 := by
  have hlt : q.toNat < 256 := q.isLt
  rw [tensNibble, BitVec.extractLsb'_toNat, Nat.shiftRight_eq_div_pow]
  omega

theorem onesNibble_eq_mod (q : Byte) : onesNibble q = q.toNat % 16 := by
  rw [onesNibble, BitVec.extractLsb'_toNat, Nat.shiftRight_zero]

/-- R86, for the high nibble. -/
theorem bcd_toNat_div_sixteen {n : Nat} (h : n ≤ 99) : (bcd n).toNat / 16 = n / 10 := by
  rw [bcd_toNat_of_le h]; omega

/-- R86, for the low nibble. -/
theorem bcd_toNat_mod_sixteen {n : Nat} (h : n ≤ 99) : (bcd n).toNat % 16 = n % 10 := by
  rw [bcd_toNat_of_le h]; omega

/-- R87: both nibbles of an in-range code are decimal digits, so `unbcd` is defined there and puts them together. -/
theorem unbcd_bcd {n : Nat} (h : n ≤ 99) : unbcd (bcd n) = some n := by
  have htens : tensNibble (bcd n) = n / 10 := by rw [tensNibble_eq_div, bcd_toNat_div_sixteen h]
  have hones : onesNibble (bcd n) = n % 10 := by rw [onesNibble_eq_mod, bcd_toNat_mod_sixteen h]
  have hdigits : n / 10 ≤ 9 ∧ n % 10 ≤ 9 := by omega
  rw [unbcd, htens, hones, if_pos hdigits, Nat.div_add_mod]

/-- A number in range is read back from its code, so two of them with one code are equal. -/
theorem bcd_injOn {m n : Nat} (hm : m ≤ 99) (hn : n ≤ 99) (h : bcd m = bcd n) : m = n := by
  have hread : some m = some n := by rw [← unbcd_bcd hm, h, unbcd_bcd hn]
  exact Option.some.inj hread

/-- Settles O30: the nibbles are the quotient and the remainder by ten, which make up the number. -/
theorem bcdRoundTrip : Obligations.BcdRoundTrip := by
  intro n hn
  refine ⟨?_, unbcd_bcd hn⟩
  rw [bcd_toNat_div_sixteen hn, bcd_toNat_mod_sixteen hn, Nat.div_add_mod]

/-- Settles O31: the digits are those of the decimal division, injectivity comes from decoding, and the clock ranges
bound the tens digit. -/
theorem bcdDigits : Obligations.BcdDigits := by
  refine ⟨fun n hn => ?digits, fun m n hm hn => bcd_injOn hm hn, fun n hn => ?sexagesimal, fun n _ hn => ?hours⟩
  case digits =>
    refine ⟨bcd_toNat_div_sixteen hn, ?_, bcd_toNat_mod_sixteen hn, ?_⟩ <;> omega
  case sexagesimal =>
    rw [bcd_toNat_div_sixteen (by omega)]
    omega
  case hours =>
    have hcode : (bcd n).toNat = if n ≤ 9 then n else n + 6 := by
      rw [bcd_toNat_of_le (by omega)]
      split_ifs <;> omega
    refine ⟨hcode, ?_⟩
    rw [hcode]
    split_ifs <;> omega

end Sys2Proof.Machine
end

section
/-! The three branches of `to12` (R98). -/

namespace Sys2Proof.Machine

/-- Midnight is the only hour at which the setting is read. -/
theorem to12_zero (fix : Bool) : to12 fix 0 = if fix = true then 12 else 0 := by
  simp [to12]

/-- Up to noon an hour other than midnight is its own 12-hour form. -/
theorem to12_of_pos_of_le {fix : Bool} {h : Nat} (hpos : 1 ≤ h) (hle : h ≤ 12) : to12 fix h = h := by
  have hmidnight : ¬(h = 0 ∧ fix = true) := by omega
  rw [to12, if_neg (Nat.not_lt.mpr hle), if_neg hmidnight]

theorem to12_of_gt {fix : Bool} {h : Nat} (hgt : 12 < h) : to12 fix h = h - 12 :=
  if_pos hgt

/-- Settles O32: midnight by its setting, the morning and noon unchanged, the afternoon less twelve. -/
theorem twelveHourConversion : Obligations.TwelveHourConversion := by
  refine ⟨to12_zero true, to12_zero false, fun fix h => ⟨fun hpos hle => ?morning, ?noon, fun hgt _ => ?afternoon⟩⟩
  case morning => exact to12_of_pos_of_le hpos (by omega)
  case noon => exact to12_of_pos_of_le (by decide) le_rfl
  case afternoon => exact to12_of_gt hgt

end Sys2Proof.Machine
end

section
/-! The inverter (R123), and what the writer agent's turn leaves of the block whatever the transport answers (R128). -/

namespace Sys2Proof.Machine

theorem inv_eq_not (x : Byte) : inv x = ~~~x :=
  BitVec.xor_allOnes

theorem getLsbD_inv (x : Byte) {i : Nat} (hi : i < 8) : (inv x).getLsbD i = !x.getLsbD i := by
  rw [inv_eq_not, BitVec.getLsbD_not, decide_eq_true hi, Bool.true_and]

/-- The one event of a transfer carries both bytes inverted and the transport's answer (R36, R127). -/
theorem State.sendPayload_log (s : State) (p : Payload) :
    (s.sendPayload p).log = s.log ++ [.write p.dev (addrOf s.cfg p.dev) (inv p.b0) (inv p.b1) s.nextWrite] :=
  s.busWrite_log p.dev (inv p.b0) (inv p.b1)

/-- Settles O33: the exclusive or with all ones is the complement, and `sendPayload` writes `inv` of both bytes. -/
theorem inverterComplementsEveryBit : Obligations.InverterComplementsEveryBit :=
  ⟨fun x _ hi => getLsbD_inv x hi, fun x => ⟨rfl, inv_inv x⟩, fun s p => s.sendPayload_log p⟩

/-- What R128 says of the state after the writer agent's turn: the queue has lost its head, and the clock, the stored
fields of STATUS and the handles are those of before. Neither the answer nor the latches are mentioned. -/
structure WriterLeavesBlock (s t : State) : Prop where
  clock   : t.clock = s.clock
  phase   : t.phase = s.phase
  fault   : t.fault = s.fault
  fcode   : t.fcode = s.fcode
  wq      : t.wq = s.wq.tail
  handleA : t.handleA = s.handleA
  handleB : t.handleB = s.handleB

/-- The transfer of the head of the queue touches nothing of the block but the queue. -/
theorem writerLeavesBlock_sendPayload {s : State} {p : Payload} {q : List Payload} (hwq : s.wq = p :: q) :
    WriterLeavesBlock s (({ s with wq := q } : State).sendPayload p) where
  clock   := State.busWrite_clock ..
  phase   := State.busWrite_phase ..
  fault   := State.busWrite_fault ..
  fcode   := State.busWrite_fcode ..
  wq      := by rw [hwq]; exact State.busWrite_wq ..
  handleA := State.busWrite_handleA ..
  handleB := State.busWrite_handleB ..

theorem writerLeavesBlock_of_writerTurn {s t : State} (h : writerTurn s = .next t) : WriterLeavesBlock s t := by
  obtain ⟨-, ⟨hwq, rfl⟩ | ⟨p, q, hwq, -, rfl⟩⟩ := writerTurn_next h
  · exact ⟨rfl, rfl, rfl, rfl, by rw [hwq]; rfl, rfl, rfl⟩
  · exact writerLeavesBlock_sendPayload hwq

/-- STATUS is made from its three stored fields and the queue (R27, R29), so states that agree on these agree on it. -/
theorem State.status_congr {s t : State} (hphase : s.phase = t.phase) (hfault : s.fault = t.fault)
    (hfcode : s.fcode = t.fcode) (hwq : s.wq = t.wq) : s.status = t.status := by
  rw [State.status, State.status, State.busy, State.busy, hphase, hfault, hfcode, hwq]

theorem writerTurn_of_nil {s : State} (hphase : s.phase ≠ .fatal) (hwq : s.wq = []) : writerTurn s = .next s := by
  rw [writerTurn, State.ifNotFatal_of_ne hphase, hwq]

theorem writerTurn_of_cons {s : State} {p : Payload} {q : List Payload} (hphase : s.phase ≠ .fatal)
    (hwq : s.wq = p :: q) (hopen : s.handle p.dev = .opened) :
    writerTurn s = .next (({ s with wq := q } : State).sendPayload p) := by
  simp only [writerTurn, State.ifNotFatal_of_ne hphase, hwq, hopen]

/-- Whether the writer agent has a step rests on the phase, the queue and the handles, never on the host's answers. -/
theorem writerTurn_next_of_answers {s t : State} (a : Answers) (h : writerTurn s = .next t) :
    ∃ t', writerTurn { s with answers := a } = .next t' := by
  obtain ⟨hphase, ⟨hwq, -⟩ | ⟨p, q, hwq, hopen, -⟩⟩ := writerTurn_next h
  · exact ⟨_, writerTurn_of_nil hphase hwq⟩
  · exact ⟨_, writerTurn_of_cons (s := { s with answers := a }) hphase hwq hopen⟩

/-- The answer is reported as the last event of `LOG` (R36). -/
theorem getLast?_log_of_writerTurn {s t : State} {p : Payload} {q : List Payload} (h : writerTurn s = .next t)
    (hwq : s.wq = p :: q) :
    t.log.getLast? = some (.write p.dev (addrOf s.cfg p.dev) (inv p.b0) (inv p.b1) s.nextWrite) := by
  obtain ⟨-, ⟨hnil, -⟩ | ⟨p', q', hcons, -, rfl⟩⟩ := writerTurn_next h
  · rw [hwq] at hnil
    cases hnil
  · rw [hwq] at hcons
    cases hcons
    rw [State.sendPayload_log, List.getLast?_concat]
    rfl

/-- Settles O41: the run with the other answers has a step too, both steps leave the block as R128 says, and the answer
is in the last event. -/
theorem writeResultLeavesTheBlock : Obligations.WriteResultLeavesTheBlock := by
  intro s t a h
  obtain ⟨t', h'⟩ := writerTurn_next_of_answers a h
  have hs : WriterLeavesBlock s t := writerLeavesBlock_of_writerTurn h
  have hs' : WriterLeavesBlock { s with answers := a } t' := writerLeavesBlock_of_writerTurn h'
  have hwq : t'.wq = t.wq := hs'.wq.trans hs.wq.symm
  have hstatus : t'.status = t.status :=
    State.status_congr (hs'.phase.trans hs.phase.symm) (hs'.fault.trans hs.fault.symm)
      (hs'.fcode.trans hs.fcode.symm) hwq
  exact ⟨t', h', hs'.clock.trans hs.clock.symm, hstatus, hwq, hs'.handleA.trans hs.handleA.symm,
    hs'.handleB.trans hs.handleB.symm, hs.clock, hs.phase, hs.fault, hs.fcode, hs.wq,
    fun _ _ => getLast?_log_of_writerTurn h⟩

end Sys2Proof.Machine
end

section
/-! Raising a fault (R142, R17): the code recorded when there was none, and the undone step as one record update. -/

namespace Sys2Proof.Machine

/-- The state after a fault that was raised before the step touched the host: STATUS alone has changed (R142). -/
theorem State.raise_eq (s : State) (code : FCode) :
    s.raise code = { s with phase := .fatal, fault := true, fcode := if s.fault then s.fcode else code } := rfl

theorem State.raiseAt_fcode_of_noFault {s0 : State} (s : State) (code : FCode) (h : s0.fault = false) :
    (s0.raiseAt code s).fcode = code := by
  rw [State.raiseAt_fcode, h, if_neg Bool.false_ne_true]

/-- Settles O10: `raiseAt` writes only STATUS into the state before the step, and takes LOG from the state reached. -/
theorem raiseRecordsFirstCode : Obligations.RaiseRecordsFirstCode := by
  intro s0 s code
  have hfcode : (s0.raiseAt code s).fcode = if s0.fault = false then code else s0.fcode := by
    rw [State.raiseAt_fcode]
    cases s0.fault <;> rfl
  exact ⟨rfl, rfl, hfcode, rfl, rfl, rfl, rfl, rfl, rfl, rfl, rfl, rfl⟩

end Sys2Proof.Machine
end

section
/-! Reserved command words (R63, R144): every word from 0x04 up decodes to `illegal`, which only raises ILLEGAL_CMD. -/

namespace Sys2Proof.Machine

/-- R63: a word of at least 0x04 has a bit of RSV set, or else an OP of at least 4. -/
theorem decode_cmd_of_four_le {w : Byte} (hw : 4 ≤ w.toNat) : ∃ rsv op, decode (.cmd w) = .illegal rsv op := by
  rw [commandDecodeFormula w]
  refine ⟨BitVec.ofNat 5 (w.toNat / 8), BitVec.ofNat 3 (w.toNat % 8), ?_⟩
  by_cases hrsv : w.toNat / 8 ≠ 0
  · exact if_pos hrsv
  · have hop : 4 ≤ w.toNat % 8 := by omega
    rw [if_neg hrsv, if_neg (by omega), if_neg (by omega), if_neg (by omega), if_neg (by omega)]

theorem step_of_present {s : State} {x : Strobe} {r : List Stimulus} (h : s.sched = .present x :: r) :
    step s = exec (decode x) { s with sched := r } := by
  simp only [step, fetch, h]

theorem exec_illegal {s : State} (rsv : BitVec 5) (op : BitVec 3) (hphase : s.phase ≠ .fatal) :
    exec (.illegal rsv op) s = .next (s.raise .illegalCmd) :=
  State.ifNotFatal_of_ne hphase

/-- Settles O12: a word from 0x04 up is presented as `illegal`, which raises ILLEGAL_CMD right after the FATAL check. -/
theorem reservedWordRaisesIllegal : Obligations.ReservedWordRaisesIllegal := by
  intro s hphase
  refine ⟨fun rsv op => exec_illegal rsv op hphase, fun w r hw hsched => ?_⟩
  obtain ⟨rsv, op, hdecode⟩ := decode_cmd_of_four_le hw
  rw [step_of_present hsched, hdecode]
  exact exec_illegal (s := { s with sched := r }) rsv op hphase

end Sys2Proof.Machine
end

section
/-! The checks START, TICK and RESYNC pass before their bodies run (R153), one equation for each outcome. -/

namespace Sys2Proof.Machine

/-! ### OVERLAP (R147) -/

theorem exec_start_of_busy {s : State} (hphase : s.phase ≠ .fatal) (hbusy : s.busy = true) :
    exec .start s = .next (s.raise .overlap) := by
  change execStart s = _
  rw [execStart, State.ifNotFatal_of_ne hphase, State.ifNotBusy_of_ne (State.busy_eq_true.mp hbusy)]

theorem exec_tick_of_busy {s : State} (hphase : s.phase ≠ .fatal) (hbusy : s.busy = true) :
    exec .tick s = .next (s.raise .overlap) := by
  change execTick s = _
  rw [execTick, State.ifNotFatal_of_ne hphase, if_pos hbusy]

theorem exec_resync_of_busy {s : State} (hphase : s.phase ≠ .fatal) (hbusy : s.busy = true) :
    exec .resync s = .next (s.raise .overlap) := by
  change execResync s = _
  rw [execResync, State.ifNotFatal_of_ne hphase, State.ifNotBusy_of_ne (State.busy_eq_true.mp hbusy)]

/-- Settles O13: the three commands check BUSY right after FATAL; NOP checks FATAL alone. -/
theorem commandWhileBusyOverlaps : Obligations.CommandWhileBusyOverlaps := by
  intro s hphase hbusy
  refine ⟨?commands, State.ifNotFatal_of_ne hphase⟩
  rintro i (rfl | rfl | rfl)
  · exact exec_start_of_busy hphase hbusy
  · exact exec_tick_of_busy hphase hbusy
  · exact exec_resync_of_busy hphase hbusy

/-! ### With nothing waiting, the body of the command runs -/

theorem State.phase_ne_fatal_of_off {s : State} (h : s.phase = .off) : s.phase ≠ .fatal := by
  rw [h]; decide

theorem State.phase_ne_fatal_of_run {s : State} (h : s.phase = .run) : s.phase ≠ .fatal := by
  rw [h]; decide

theorem State.phase_ne_run_of_off {s : State} (h : s.phase = .off) : s.phase ≠ .run := by
  rw [h]; decide

theorem State.phase_ne_off_of_run {s : State} (h : s.phase = .run) : s.phase ≠ .off := by
  rw [h]; decide

theorem State.not_busy_of_nil {s : State} (h : s.wq = []) : ¬ s.busy = true := by
  rw [State.busy_eq_true, not_not, h]

theorem exec_start_of_nil {s : State} (hphase : s.phase ≠ .fatal) (hwq : s.wq = []) :
    exec .start s = .next (startStep s) := by
  change execStart s = _
  rw [execStart, State.ifNotFatal_of_ne hphase, State.ifNotBusy_of_nil hwq]

theorem exec_tick_of_off {s : State} (hphase : s.phase = .off) (hwq : s.wq = []) :
    exec .tick s = .next (s.raise .notStarted) := by
  change execTick s = _
  rw [execTick, State.ifNotFatal_of_ne (State.phase_ne_fatal_of_off hphase), if_neg (State.not_busy_of_nil hwq),
    if_pos hphase]

theorem exec_tick_of_run {s : State} {c : Clock} (hphase : s.phase = .run) (hwq : s.wq = [])
    (hclock : s.clock = some c) : exec .tick s = tickStep c s := by
  change execTick s = _
  rw [execTick, State.ifNotFatal_of_ne (State.phase_ne_fatal_of_run hphase), if_neg (State.not_busy_of_nil hwq),
    if_neg (State.phase_ne_off_of_run hphase), hclock]

theorem exec_resync_of_off {s : State} (hphase : s.phase = .off) (hwq : s.wq = []) :
    exec .resync s = .next (s.raise .notStarted) := by
  change execResync s = _
  rw [execResync, State.ifNotFatal_of_ne (State.phase_ne_fatal_of_off hphase), State.ifNotBusy_of_nil hwq,
    if_pos hphase]

theorem exec_resync_of_run {s : State} (hphase : s.phase = .run) (hwq : s.wq = []) :
    exec .resync s = .next ((resync s).commit s) := by
  change execResync s = _
  rw [execResync, State.ifNotFatal_of_ne (State.phase_ne_fatal_of_run hphase), State.ifNotBusy_of_nil hwq,
    if_neg (State.phase_ne_off_of_run hphase)]

/-- Settles O14: with nothing waiting, phase OFF is the next check of both commands. -/
theorem tickOrResyncBeforeStart : Obligations.TickOrResyncBeforeStart := by
  rintro s i (rfl | rfl) hphase hwq
  · exact exec_tick_of_off hphase hwq
  · exact exec_resync_of_off hphase hwq

end Sys2Proof.Machine
end

section
/-! The body of START (R92): its checks in their order, and what the opens leave in LOG. -/

namespace Sys2Proof.Machine

theorem startStep_of_run {s : State} (hphase : s.phase = .run) : startStep s = s.raise .restart := by
  rw [startStep, if_pos hphase]

theorem startStep_of_addr_eq {s : State} (hphase : s.phase = .off) (haddr : s.cfg.addrA = s.cfg.addrB) :
    startStep s = s.raise .config := by
  rw [startStep, if_neg (State.phase_ne_run_of_off hphase), if_pos haddr]

/-- Settles O15: phase RUN is the first check of START's body. -/
theorem startWhileRunningRestarts : Obligations.StartWhileRunningRestarts := by
  intro s hphase hwq
  rw [exec_start_of_nil (State.phase_ne_fatal_of_run hphase) hwq, startStep_of_run hphase, State.raise_eq]

/-- Settles O16: the addresses are compared before the first `Open`, so the fault is raised in the state before the
step, whose LOG has no new event. -/
theorem startWithEqualAddresses : Obligations.StartWithEqualAddresses := by
  intro s hphase hwq haddr
  rw [exec_start_of_nil (State.phase_ne_fatal_of_off hphase) hwq, startStep_of_addr_eq hphase haddr, State.raise_eq]

/-! ### The opens (R44, R149) -/

theorem startStep_of_openA_error {s : State} (hphase : s.phase = .off) (haddr : s.cfg.addrA ≠ s.cfg.addrB)
    (hA : s.nextOpen .a = .error) : startStep s = s.raiseAt .deviceCreate (s.afterOpen .a) := by
  simp only [startStep, if_neg (State.phase_ne_run_of_off hphase), if_neg haddr, hA]

theorem startStep_of_openB_error {s : State} (hphase : s.phase = .off) (haddr : s.cfg.addrA ≠ s.cfg.addrB)
    (hA : s.nextOpen .a = .ok) (hB : (s.afterOpen .a).nextOpen .b = .error) :
    startStep s = s.raiseAt .deviceCreate s.bothOpened := by
  simp only [startStep, if_neg (State.phase_ne_run_of_off hphase), if_neg haddr, hA, hB, State.bothOpened]

theorem startStep_of_open_ok {s : State} (hphase : s.phase = .off) (haddr : s.cfg.addrA ≠ s.cfg.addrB)
    (hA : s.nextOpen .a = .ok) (hB : (s.afterOpen .a).nextOpen .b = .ok) :
    startStep s = startDevicesOpen s s.bothOpened := by
  simp only [startStep, if_neg (State.phase_ne_run_of_off hphase), if_neg haddr, hA, hB, State.bothOpened]

/-- Both opens are in LOG with their answers, A before B (R36, R44). -/
theorem State.bothOpened_log (s : State) :
    s.bothOpened.log = s.log ++ [.open .a (s.nextOpen .a), .open .b ((s.afterOpen .a).nextOpen .b)] := by
  rw [State.bothOpened, State.afterOpen_log, State.afterOpen_log, List.append_assoc, List.cons_append,
    List.nil_append]

theorem State.bothOpened_fault (s : State) : s.bothOpened.fault = s.fault := by
  rw [State.bothOpened, State.afterOpen_fault, State.afterOpen_fault]

/-- Settles O17: the failed start is `raiseAt` on the state before the step, which keeps all of the block but STATUS,
and LOG is that of the opens tried. -/
theorem startWithoutADevice : Obligations.StartWithoutADevice := by
  intro s hphase hwq hfault haddr
  have hexec : exec .start s = .next (startStep s) := exec_start_of_nil (State.phase_ne_fatal_of_off hphase) hwq
  refine ⟨fun hA => ?firstFails, fun hA hB => ?secondFails⟩
  case firstFails =>
    rw [startStep_of_openA_error hphase haddr hA] at hexec
    have hlog : (s.afterOpen .a).log = s.log ++ [.open .a .error] := by rw [State.afterOpen_log, hA]
    exact ⟨_, hexec, rfl, rfl, State.raiseAt_fcode_of_noFault _ _ hfault, rfl, hwq, rfl, rfl, rfl, rfl, hlog⟩
  case secondFails =>
    rw [startStep_of_openB_error hphase haddr hA hB] at hexec
    have hlog : s.bothOpened.log = s.log ++ [.open .a .ok, .open .b .error] := by rw [State.bothOpened_log, hA, hB]
    exact ⟨_, hexec, rfl, rfl, State.raiseAt_fcode_of_noFault _ _ hfault, rfl, hwq, rfl, rfl, rfl, rfl, hlog⟩

end Sys2Proof.Machine
end

section
/-! A host time out of contract (R43, R150): `resync` raises HOST_RANGE, and so does each command that runs it. -/

namespace Sys2Proof.Machine

theorem hostTimeOk_eq_false_iff {t : HostTime} :
    hostTimeOk t = false ↔ ¬ (t.h24 ≤ 23 ∧ t.m ≤ 59 ∧ t.s ≤ 59) := by
  rw [← hostTimeOk_iff, Bool.not_eq_true]

theorem resync_of_not_ok {s : State} (h : hostTimeOk s.nextNow = false) :
    resync s = .raised .hostRange s.afterNow := by
  rw [resync, h, if_neg Bool.false_ne_true]

/-- TICK at a second, a minute and an hour that all carry takes its time from the host, and is undone (R97). -/
theorem tickStep_of_wrap_of_not_ok {c : Clock} {s : State} (hsec : 59 < (c.sec + 1).toNat)
    (hmin : 59 < (c.min + 1).toNat) (hhour : 12 < (c.hour + 1).toNat) (h : hostTimeOk s.nextNow = false) :
    tickStep c s = .next (s.raiseAt .hostRange s.afterNow) := by
  have hincMinute : incMinute { c with sec := 0 } s = .raised .hostRange s.afterNow := by
    rw [incMinute_of_gt (c := { c with sec := 0 }) s hmin,
      incHour_of_gt (c := { c with sec := 0, min := 0 }) s hhour, resync_of_not_ok h, Flow.thenEmit_raised,
      Flow.thenEmit_raised]
  simp only [tickStep, if_pos hsec, hincMinute, Flow.commit_raised]

theorem startDevicesOpen_of_not_ok (s0 : State) {s : State} (h : hostTimeOk s.nextNow = false) :
    startDevicesOpen s0 s = s0.raiseAt .hostRange s.afterNow := by
  obtain ⟨hok, -⟩ | ⟨-, heq⟩ := startDevicesOpen_cases s0 s
  · rw [h] at hok
    cases hok
  · exact heq

theorem State.bothOpened_afterNow_log {s : State} (hA : s.nextOpen .a = .ok)
    (hB : (s.afterOpen .a).nextOpen .b = .ok) :
    s.bothOpened.afterNow.log = s.log ++ [.open .a .ok, .open .b .ok, .read s.bothOpened.nextNow] := by
  simp only [State.afterNow_log, State.bothOpened_log, hA, hB, List.append_assoc, List.cons_append, List.nil_append]

/-- Settles O18: in all three commands the fault is `raiseAt` on the state before the command, with the LOG of the
state in which the host clock was read. -/
theorem hostRangeUndoesTheCommand : Obligations.HostRangeUndoesTheCommand := by
  intro s hwq hfault
  have hfcode (u : State) : (s.raiseAt .hostRange u).fcode = .hostRange := State.raiseAt_fcode_of_noFault u _ hfault
  refine ⟨fun c hphase hclock hsec hmin hhour hnow => ?tick, fun hphase hnow => ?resync,
    fun u hphase haddr hA hB hu hnow => ?start⟩
  case tick =>
    have htick := tickStep_of_wrap_of_not_ok (c := c) (by rw [hsec]; decide) (by rw [hmin]; decide)
      (by rw [hhour]; decide) (hostTimeOk_eq_false_iff.mpr hnow)
    exact ⟨_, (exec_tick_of_run hphase hwq hclock).trans htick, rfl, rfl, hfcode _, hclock, hwq, rfl, rfl, rfl⟩
  case resync =>
    have hexec := exec_resync_of_run hphase hwq
    rw [resync_of_not_ok (hostTimeOk_eq_false_iff.mpr hnow), Flow.commit_raised] at hexec
    exact ⟨_, hexec, rfl, rfl, hfcode _, rfl, hwq, rfl, rfl, rfl⟩
  case start =>
    obtain rfl : s.bothOpened = u := hu
    have hexec := exec_start_of_nil (State.phase_ne_fatal_of_off hphase) hwq
    rw [startStep_of_open_ok hphase haddr hA hB,
      startDevicesOpen_of_not_ok s (hostTimeOk_eq_false_iff.mpr hnow)] at hexec
    exact ⟨_, hexec, rfl, rfl, hfcode _, rfl, hwq, rfl, rfl, State.bothOpened_afterNow_log hA hB⟩

end Sys2Proof.Machine
end

section
/-! The causes of the fault codes (R141), command by command. -/

namespace Sys2Proof.Machine

/-- The row of R141 for a code: which instructions raise it in a step from `s` to `t`, and why. The answer of the host
clock that raises HOST_RANGE is the last event of the step. -/
abbrev FaultCause (i : Instr) (s t : State) : FCode → Prop
  | .none         => False
  | .illegalCmd   => ∃ rsv op, i = .illegal rsv op
  | .notStarted   => (i = .tick ∨ i = .resync) ∧ s.phase = .off
  | .restart      => i = .start ∧ s.phase = .run
  | .overlap      => (i = .start ∨ i = .tick ∨ i = .resync) ∧ s.busy = true
  | .config       => i = .start ∧ s.cfg.addrA = s.cfg.addrB
  | .deviceCreate => i = .start ∧
      (s.nextOpen .a = .error ∨ s.nextOpen .a = .ok ∧ (s.afterOpen .a).nextOpen .b = .error)
  | .hostRange    => ∃ now : HostTime, ¬ (now.h24 ≤ 23 ∧ now.m ≤ 59 ∧ now.s ≤ 59) ∧
      ((i = .start ∧ t.log = s.log ++ [.open .a .ok, .open .b .ok, .read now]) ∨
       (i = .resync ∧ t.log = s.log ++ [.read now]) ∨
       (i = .tick ∧ t.log = s.log ++ [.read now] ∧
         ∃ c, s.clock = some c ∧ (c.InRange s.cfg.midnightFix → c = ⟨59#8, 59#8, 12#8⟩)))
  | .bcdRange     => s.cfg.bcdOor = .fault ∧ ∃ n, i = .encode n ∧ 99 < n.toNat

/-- A code raised where none was recorded is the code recorded (R142), so its row is the one to show. -/
theorem faultCause_raiseAt {i : Instr} {s u : State} {code : FCode} (hfault : s.fault = false)
    (h : FaultCause i s (s.raiseAt code u) code) :
    FaultCause i s (s.raiseAt code u) (s.raiseAt code u).fcode := by
  rwa [State.raiseAt_fcode_of_noFault u code hfault]

/-- A step that leaves FAULT as it was has raised nothing. -/
theorem faultCause_of_fault_kept {i : Instr} {s t : State} (hfault : s.fault = false) (hraised : t.fault = true)
    (hkept : t.fault = s.fault) : FaultCause i s t t.fcode := by
  rw [hkept, hfault] at hraised
  cases hraised

section
variable {s t : State}

theorem faultCause_start (hexec : execStart s = .next t) (hfault : s.fault = false) (hraised : t.fault = true) :
    FaultCause .start s t t.fcode := by
  obtain ⟨-, ⟨hwq, rfl⟩ | ⟨-, hphase, rfl⟩ | ⟨-, -, haddr, rfl⟩ | ⟨-, -, -, hA, rfl⟩ | ⟨-, -, -, hA, hB, rfl⟩ |
    ⟨-, -, -, hA, hB, rfl⟩⟩ := execStart_next hexec
  · exact faultCause_raiseAt hfault ⟨.inl rfl, State.busy_eq_true.mpr hwq⟩
  · exact faultCause_raiseAt hfault ⟨rfl, hphase⟩
  · exact faultCause_raiseAt hfault ⟨rfl, haddr⟩
  · exact faultCause_raiseAt hfault ⟨rfl, .inl hA⟩
  · exact faultCause_raiseAt hfault ⟨rfl, .inr ⟨hA, hB⟩⟩
  · obtain ⟨-, heq⟩ | ⟨hnow, heq⟩ := startDevicesOpen_cases s s.bothOpened
    · refine faultCause_of_fault_kept hfault hraised ?_
      rw [heq]
      exact s.bothOpened_fault
    · rw [heq]
      exact faultCause_raiseAt hfault
        ⟨_, hostTimeOk_eq_false_iff.mp hnow, .inl ⟨rfl, State.bothOpened_afterNow_log hA hB⟩⟩

/-- The registers in range that carry at the second, the minute and the hour are 59, 59 and 12 (R25, case T4). -/
theorem Clock.eq_of_inRange_of_carries {fix : Bool} {c : Clock} (hsec : 59 < (c.sec + 1).toNat)
    (hmin : 59 < (c.min + 1).toNat) (hhour : 12 < (c.hour + 1).toNat) (h : c.InRange fix) :
    c = ⟨59#8, 59#8, 12#8⟩ := by
  obtain ⟨sec, min, hour⟩ := c
  obtain ⟨hs, hm, hh, -⟩ := h
  simp only [Clock.mk.injEq]
  refine ⟨?_, ?_, ?_⟩ <;> bv_omega

theorem faultCause_tick (hexec : execTick s = .next t) (hfault : s.fault = false) (hraised : t.fault = true) :
    FaultCause .tick s t t.fcode := by
  obtain ⟨-, ⟨hwq, rfl⟩ | ⟨-, hphase, rfl⟩ | ⟨-, -, c, hclock, htick⟩⟩ := execTick_next hexec
  · exact faultCause_raiseAt hfault ⟨.inr (.inl rfl), State.busy_eq_true.mpr hwq⟩
  · exact faultCause_raiseAt hfault ⟨.inl rfl, hphase⟩
  · obtain ⟨-, -, rfl⟩ | ⟨-, -, rfl⟩ | ⟨-, -, -, rfl⟩ | ⟨-, -, -, -, rfl⟩ | ⟨hsec, hmin, hhour, hnow, rfl⟩ :=
      tickStep_next htick
    · exact faultCause_of_fault_kept hfault hraised rfl
    · exact faultCause_of_fault_kept hfault hraised rfl
    · exact faultCause_of_fault_kept hfault hraised rfl
    · exact faultCause_of_fault_kept hfault hraised rfl
    · exact faultCause_raiseAt hfault ⟨_, hostTimeOk_eq_false_iff.mp hnow,
        .inr (.inr ⟨rfl, rfl, c, hclock, Clock.eq_of_inRange_of_carries hsec hmin hhour⟩)⟩

theorem faultCause_resync (hexec : execResync s = .next t) (hfault : s.fault = false) (hraised : t.fault = true) :
    FaultCause .resync s t t.fcode := by
  obtain ⟨-, ⟨hwq, rfl⟩ | ⟨-, hphase, rfl⟩ | ⟨-, -, hnow, rfl⟩ | ⟨-, -, -, rfl⟩⟩ := execResync_next hexec
  · exact faultCause_raiseAt hfault ⟨.inr (.inr rfl), State.busy_eq_true.mpr hwq⟩
  · exact faultCause_raiseAt hfault ⟨.inr rfl, hphase⟩
  · exact faultCause_raiseAt hfault ⟨_, hostTimeOk_eq_false_iff.mp hnow, .inr (.inl ⟨rfl, rfl⟩)⟩
  · exact faultCause_of_fault_kept hfault hraised rfl

theorem faultCause_encode {n : Byte} (hexec : execEncode n s = .next t) (hfault : s.fault = false)
    (hraised : t.fault = true) : FaultCause (.encode n) s t t.fcode := by
  obtain ⟨-, ⟨-, rfl⟩ | ⟨hn, hpolicy, rfl⟩ | ⟨-, -, rfl⟩⟩ := execEncode_next hexec
  · exact faultCause_of_fault_kept hfault hraised rfl
  · exact faultCause_raiseAt hfault ⟨hpolicy, n, rfl, hn⟩
  · exact faultCause_of_fault_kept hfault hraised rfl

/-- The code a step records, whatever the instruction, has its cause in the row of R141 for it. -/
theorem faultCause_exec {i : Instr} (hexec : exec i s = .next t) (hfault : s.fault = false)
    (hraised : t.fault = true) : FaultCause i s t t.fcode := by
  cases i with
  | nop =>
    obtain ⟨-, rfl⟩ := execNop_next hexec
    exact faultCause_of_fault_kept hfault hraised rfl
  | start => exact faultCause_start hexec hfault hraised
  | tick => exact faultCause_tick hexec hfault hraised
  | resync => exact faultCause_resync hexec hfault hraised
  | encode n => exact faultCause_encode hexec hfault hraised
  | invert in0 in1 =>
    obtain ⟨-, rfl⟩ := execInvert_next hexec
    exact faultCause_of_fault_kept hfault hraised rfl
  | illegal rsv op =>
    obtain ⟨-, rfl⟩ := execIllegal_next rsv op hexec
    exact faultCause_raiseAt hfault ⟨rsv, op, rfl⟩

end

/-- R141: the codes 0x9 to 0xF are never held. -/
theorem fcodeBits_lt_nine (f : FCode) : (fcodeBits f).toNat < 0x9 := by
  cases f <;> decide

/-- Settles O19: the code recorded picks its row of `FaultCause`, and the rows are the clauses of the statement. -/
theorem faultCodesHaveTheirCauses : Obligations.FaultCodesHaveTheirCauses := by
  refine ⟨⟨rfl, rfl, rfl, rfl, rfl, rfl, rfl, rfl, rfl, fcodeBits_lt_nine⟩, fun i s t hexec hfault hraised => ?_⟩
  have hcause : FaultCause i s t t.fcode := faultCause_exec hexec hfault hraised
  cases hcode : t.fcode <;> rw [hcode] at hcause
  case none => exact hcause.elim
  case illegalCmd => exact .inl ⟨rfl, hcause⟩
  case notStarted => exact .inr (.inl ⟨rfl, hcause⟩)
  case restart => exact .inr (.inr (.inl ⟨rfl, hcause⟩))
  case overlap => exact .inr (.inr (.inr (.inl ⟨rfl, hcause⟩)))
  case config => exact .inr (.inr (.inr (.inr (.inl ⟨rfl, hcause⟩))))
  case deviceCreate => exact .inr (.inr (.inr (.inr (.inr (.inl ⟨rfl, hcause⟩)))))
  case hostRange => exact .inr (.inr (.inr (.inr (.inr (.inr (.inl ⟨rfl, hcause⟩))))))
  case bcdRange => exact .inr (.inr (.inr (.inr (.inr (.inr (.inr ⟨rfl, hcause⟩))))))

end Sys2Proof.Machine
end

section
/-! Decoding and encoding are inverse to each other (R61 to R71). -/

namespace Sys2Proof

/-! ### The two fields of a word put together (R61) -/

@[simp] theorem rsvField_append (rsv : BitVec 5) (op : BitVec 3) : rsvField (rsv ++ op) = rsv :=
  BitVec.extractLsb'_append_eq_left

@[simp] theorem opField_append (rsv : BitVec 5) (op : BitVec 3) : opField (rsv ++ op) = op :=
  BitVec.extractLsb'_append_eq_right

@[simp] theorem rsvField_append_opField (w : Byte) : rsvField w ++ opField w = w :=
  BitVec.extractLsb'_append_extractLsb'_eq_extractLsb' rfl |>.trans (BitVec.extractLsb'_eq_self)

theorem reservedFields_iff (rsv : BitVec 5) (op : BitVec 3) :
    reservedFields rsv op = true ↔ rsv ≠ 0 ∨ 4 ≤ op.toNat := by
  simp [reservedFields]

/-! ### Decoding a command word (R65) -/

/-- The fields of a reserved word pass by the four used words and reach `illegal` as they are. -/
theorem decodeCmd_append_of_reserved {rsv : BitVec 5} {op : BitVec 3} (h : reservedFields rsv op = true) :
    decodeCmd (rsv ++ op) = .illegal rsv op := by
  rw [decodeCmd, rsvField_append, opField_append]
  rcases (reservedFields_iff rsv op).mp h with hrsv | hop
  · exact if_pos hrsv
  · by_cases hrsv : rsv ≠ 0
    · exact if_pos hrsv
    · rw [if_neg hrsv, if_neg (by bv_omega), if_neg (by bv_omega), if_neg (by bv_omega), if_neg (by bv_omega)]

/-- Settles O1: the words of the rows other than ILLEGAL are constants or the operands themselves; a reserved word
keeps both its fields. -/
theorem decodeInvertsEncode : Obligations.DecodeInvertsEncode := by
  intro i hwf
  cases i with
  | nop | start | tick | resync => rfl
  | encode n => rfl
  | invert in0 in1 => rfl
  | illegal rsv op => exact decodeCmd_append_of_reserved hwf

/-- What R65 answers is well formed, and its words are the word decoded. -/
theorem encode_decodeCmd (w : Byte) : encode (decodeCmd w) = .cmd w ∧ (decodeCmd w).wf = true := by
  have hword {rsv : BitVec 5} {op : BitVec 3} (hrsv : rsvField w = rsv) (hop : opField w = op) :
      Strobe.cmd (rsv ++ op) = .cmd w := by
    rw [← hrsv, ← hop, rsvField_append_opField]
  unfold decodeCmd
  split_ifs with hrsv hnop hstart htick hresync
  · exact ⟨hword rfl rfl, (reservedFields_iff _ _).mpr (.inl hrsv)⟩
  · exact ⟨hword (not_not.mp hrsv) hnop, rfl⟩
  · exact ⟨hword (not_not.mp hrsv) hstart, rfl⟩
  · exact ⟨hword (not_not.mp hrsv) htick, rfl⟩
  · exact ⟨hword (not_not.mp hrsv) hresync, rfl⟩
  · exact ⟨hword rfl rfl, (reservedFields_iff _ _).mpr (.inr (by bv_omega))⟩

/-- Settles O2: only the command port has words to tell apart; the other two ports carry the operands themselves. -/
theorem encodeInvertsDecode : Obligations.EncodeInvertsDecode := by
  intro x
  cases x with
  | cmd w => exact encode_decodeCmd w
  | codec n => exact ⟨rfl, rfl⟩
  | inv in0 in1 => exact ⟨rfl, rfl⟩

/-- Settles O4: each sample word is evaluated. -/
theorem sampleWordsDecode : Obligations.SampleWordsDecode := by
  unfold Obligations.SampleWordsDecode
  decide

end Sys2Proof
end

section
/-! One equation of `step` for each kind of move (R33, R73, R127, R153, R163, R170). -/

namespace Sys2Proof.Machine

section
variable {s : State} {r : List Stimulus}

theorem step_of_nil (h : s.sched = []) : step s = writerTurn s := by
  simp only [step, fetch, h, idleTurn]

theorem step_of_drain (h : s.sched = .drain :: r) : step s = writerTurn { s with sched := r } := by
  simp only [step, fetch, h]

theorem step_of_wait_of_busy (h : s.sched = .wait :: r) (hphase : s.phase ≠ .fatal) (hwq : s.wq ≠ []) :
    step s = writerTurn s := by
  have hgoesOn : ¬ (s.phase = .fatal ∨ s.busy = false) := by simp [hphase, State.busy_eq_false, hwq]
  simp only [step, fetch, h, waitTurn, if_neg hgoesOn]

theorem step_of_wait_of_done (h : s.sched = .wait :: r) (hdone : s.phase = .fatal ∨ s.wq = []) :
    step s = .next { s with sched := r } := by
  have hends : s.phase = .fatal ∨ s.busy = false := by rwa [State.busy_eq_false]
  simp only [step, fetch, h, waitTurn, if_pos hends]

theorem step_of_answers {a : Answers} (h : s.sched = .answers a :: r) :
    step s = .next { s with sched := r, answers := a } := by
  simp only [step, fetch, h]

theorem step_of_reset (h : s.sched = .reset :: r) :
    step s = .next ({ s with sched := r } : State).blockReset := by
  simp only [step, fetch, h]

end

/-- Settles O5: it is the equation of a step for the move `present`. -/
theorem stepRunsPresentedInstruction : Obligations.StepRunsPresentedInstruction :=
  fun _ _ _ hsched => step_of_present hsched

/-- Settles O6: the equations of a step for the other moves, and the writer's turn with nothing queued. -/
theorem stepOfOtherMoves : Obligations.StepOfOtherMoves := fun _ =>
  ⟨step_of_nil, writerTurn_of_nil, fun hsched hphase hwq => (step_of_nil hsched).trans (writerTurn_of_nil hphase hwq),
    fun _ => step_of_drain, fun _ => step_of_wait_of_busy, fun _ => step_of_wait_of_done, fun _ _ => step_of_answers⟩

/-- Settles O9: the reset writes the values of R38 into all of the block but what belongs to the chips and the host. -/
theorem blockResetKeepsOnlyTheLatches : Obligations.BlockResetKeepsOnlyTheLatches := fun _ _ hsched =>
  ⟨_, step_of_reset hsched, rfl, State.status_eq_zero rfl rfl rfl rfl, rfl, rfl, rfl, rfl, rfl, rfl, rfl, rfl⟩

/-- Settles O8: the exit statuses of `Config.platform` take a value beside 0 and beside each other wherever the free
one is not allowed. -/
theorem resetConfigurationKeepsLimits : Obligations.ResetConfigurationKeepsLimits := by
  refine ⟨⟨?config, ?device, ?different⟩, rfl, rfl⟩ <;>
    simp only [State.reset, Config.platform] <;> split_ifs <;> omega

end Sys2Proof.Machine
end

section
/-! The halt in phase FATAL (R143), and NOP, the codec and the inverter (R80, R82, R91, R122) with what they leave
unchanged. -/

namespace Sys2Proof.Machine

theorem exec_of_fatal {s : State} (i : Instr) (hfatal : s.phase = .fatal) : exec i s = .fault .halted := by
  cases i <;> exact State.ifNotFatal_of_fatal hfatal

theorem writerTurn_of_fatal {s : State} (hfatal : s.phase = .fatal) : writerTurn s = .fault .halted :=
  State.ifNotFatal_of_fatal hfatal

/-- Settles O11: each agent passes the check of FATAL first (R153), and a run that ends well is in phase RUN. -/
theorem fatalHaltsEveryAgent : Obligations.FatalHaltsEveryAgent := by
  intro s hfatal
  refine ⟨fun i => exec_of_fatal i hfatal, writerTurn_of_fatal hfatal, fun x r hsched => ?present,
    fun r hsched => ?drain, fun hsched => ?idle, fun ⟨hrun, _⟩ => State.phase_ne_fatal_of_run hrun hfatal⟩
  case present => exact (step_of_present hsched).trans (exec_of_fatal (s := { s with sched := r }) _ hfatal)
  case drain => exact (step_of_drain hsched).trans (writerTurn_of_fatal (s := { s with sched := r }) hfatal)
  case idle => exact (step_of_nil hsched).trans (writerTurn_of_fatal hfatal)

/-- Settles O20: NOP has the check of FATAL and no more. -/
theorem nopChangesNothing : Obligations.NopChangesNothing :=
  fun _ => ⟨State.ifNotFatal_of_ne, exec_of_fatal .nop⟩

/-- Settles O29: outside FATAL INVERT appends its two outputs to the history. -/
theorem invertFollowsItsRule : Obligations.InvertFollowsItsRule :=
  fun in0 in1 _ => ⟨exec_of_fatal (.invert in0 in1), State.ifNotFatal_of_ne⟩

/-! ### ENCODE -/

theorem exec_encode {s : State} (n : Byte) (hphase : s.phase ≠ .fatal) :
    exec (.encode n) s = .next (encodeStep n.toNat s) :=
  State.ifNotFatal_of_ne hphase

theorem oor_eq_true {n : Nat} (h : 99 < n) : oor n = true := decide_eq_true h

theorem oor_eq_false {n : Nat} (h : n ≤ 99) : oor n = false := decide_eq_false (Nat.not_lt.mpr h)

theorem encodeStep_of_le {n : Nat} {s : State} (hn : n ≤ 99) : encodeStep n s = s.output (.codec (bcd n) false) := by
  rw [encodeStep, oor_eq_false hn, if_neg Bool.false_ne_true]

theorem encodeStep_of_fault {n : Nat} {s : State} (hn : 99 < n) (hpolicy : s.cfg.bcdOor = .fault) :
    encodeStep n s = s.raise .bcdRange := by
  rw [encodeStep, oor_eq_true hn, if_pos rfl, hpolicy]

theorem encodeStep_of_mask {n : Nat} {s : State} (hn : 99 < n) (hpolicy : s.cfg.bcdOor = .mask) :
    encodeStep n s = s.output (.codec (bcdMask n) true) := by
  rw [encodeStep, oor_eq_true hn, if_pos rfl, hpolicy]

/-- In range no nibble is cut, so the code is tens times sixteen plus ones (R83). -/
theorem bcd_eq_ofNat {n : Nat} (h : n ≤ 99) : bcd n = BitVec.ofNat 8 (n / 10 * 16 + n % 10) := by
  have hcode := bcd_toNat_of_le h
  exact BitVec.eq_of_toNat_eq (by rw [hcode, BitVec.toNat_ofNat]; omega)

/-- The mask of R82 is the width of the byte. -/
theorem bcdMask_eq_bcd (n : Nat) : bcdMask n = bcd n := by
  have hmask (k : Nat) : BitVec.ofNat 8 (k &&& 0xFF) = BitVec.ofNat 8 k := by
    apply BitVec.eq_of_toNat_eq
    rw [BitVec.toNat_ofNat, BitVec.toNat_ofNat, Nat.and_two_pow_sub_one_eq_mod k 8, Nat.mod_mod]
  exact hmask _

/-- Out of range the tens digit loses what is above its nibble (R82). -/
theorem bcdMask_eq_ofNat {n : Nat} (h : n < 256) : bcdMask n = BitVec.ofNat 8 (n / 10 % 16 * 16 + n % 10) := by
  have hcode := bcd_toNat h
  rw [bcdMask_eq_bcd]
  exact BitVec.eq_of_toNat_eq (by rw [hcode, BitVec.toNat_ofNat]; omega)

/-- Settles O28: OOR and then the policy pick the branch of `encodeStep`, whose bit formula is read as a number. -/
theorem encodeFollowsItsRule : Obligations.EncodeFollowsItsRule := by
  intro n s
  refine ⟨exec_of_fatal _, fun hphase hn => ?inRange, fun hphase hn hpolicy => ?fault,
    fun hphase hn hpolicy => ?mask⟩ <;> rw [exec_encode n hphase]
  case inRange => rw [encodeStep_of_le hn, bcd_eq_ofNat hn, State.output]
  case fault => rw [encodeStep_of_fault hn hpolicy, State.raise_eq]
  case mask => rw [encodeStep_of_mask hn hpolicy, bcdMask_eq_ofNat n.isLt, State.output]

/-- Settles O42: NOP leaves all, the codec and the inverter append an output or the codec raises, and a reserved word
raises. -/
theorem portOperationsFrame : Obligations.PortOperationsFrame := by
  rintro i s t hexec (rfl | ⟨n, rfl⟩ | ⟨x, y, rfl⟩ | ⟨rsv, op, rfl⟩)
  · obtain ⟨-, rfl⟩ := execNop_next hexec
    exact ⟨rfl, List.prefix_rfl, fun _ => ⟨rfl, rfl, rfl⟩, fun _ => rfl⟩
  · have hnot : ¬ (Instr.encode n = .nop ∨ ∃ x y, Instr.encode n = .invert x y) := by simp
    have hnot' : ¬ (Instr.encode n = .nop ∨ ∃ rsv op, Instr.encode n = .illegal rsv op) := by simp
    obtain ⟨-, ⟨-, rfl⟩ | ⟨-, -, rfl⟩ | ⟨-, -, rfl⟩⟩ := execEncode_next hexec
    · exact ⟨rfl, List.prefix_append _ _, fun h => absurd h hnot, fun h => absurd h hnot'⟩
    · exact ⟨rfl, List.prefix_rfl, fun h => absurd h hnot, fun h => absurd h hnot'⟩
    · exact ⟨rfl, List.prefix_append _ _, fun h => absurd h hnot, fun h => absurd h hnot'⟩
  · have hnot : ¬ (Instr.invert x y = .nop ∨ ∃ rsv op, Instr.invert x y = .illegal rsv op) := by simp
    obtain ⟨-, rfl⟩ := execInvert_next hexec
    exact ⟨rfl, List.prefix_append _ _, fun _ => ⟨rfl, rfl, rfl⟩, fun h => absurd h hnot⟩
  · have hnot : ¬ (Instr.illegal rsv op = .nop ∨ ∃ x y, Instr.illegal rsv op = .invert x y) := by simp
    obtain ⟨-, rfl⟩ := execIllegal_next rsv op hexec
    exact ⟨rfl, List.prefix_rfl, fun h => absurd h hnot, fun _ => rfl⟩

end Sys2Proof.Machine
end

section
/-! STATUS as the host reads it (R27, R154). -/

namespace Sys2Proof.Machine

/-- Appending fields is adding their numbers, the upper one shifted by the width of the lower. -/
theorem toNat_append_eq_add {m n : Nat} (x : BitVec m) (y : BitVec n) : (x ++ y).toNat = x.toNat * 2 ^ n + y.toNat := by
  rw [BitVec.toNat_append, ← Nat.shiftLeft_add_eq_or_of_lt y.isLt, Nat.shiftLeft_eq]

theorem State.status_toNat (s : State) :
    s.status.toNat =
      (fcodeBits s.fcode).toNat * 16 + (s.fault.toNat * 8 + (s.busy.toNat * 4 + (phaseBits s.phase).toNat)) := by
  simp only [State.status, toNat_append_eq_add, BitVec.toNat_ofBool]
  omega

theorem getLsbD_eq_of_div_mod {x : Byte} {i : Nat} {b : Bool} (h : x.toNat / 2 ^ i % 2 = b.toNat) :
    x.getLsbD i = b := by
  rw [BitVec.getLsbD, Nat.testBit_eq_decide_div_mod_eq, h]
  cases b <;> rfl

/-- Settles O34: STATUS is a sum of its fields, each shifted to its place, and each is below the place of the next. -/
theorem statusLayout : Obligations.StatusLayout := by
  intro s
  have hphase : (phaseBits s.phase).toNat < 4 := (phaseBits s.phase).isLt
  have hfault : s.fault.toNat ≤ 1 := s.fault.toNat_le
  have hbusy : s.busy.toNat ≤ 1 := s.busy.toNat_le
  have hsum := s.status_toNat
  refine ⟨?phase, ?busy, ?fault, by omega⟩
  case phase =>
    have hlow : s.status.toNat % 4 = (phaseBits s.phase).toNat := by omega
    rw [hlow]
    cases s.phase <;> rfl
  case busy =>
    rw [← State.busy_eq_true, getLsbD_eq_of_div_mod (b := s.busy) (by omega)]
  case fault => exact getLsbD_eq_of_div_mod (by omega)

/-- Settles O35: `exitStatus` reads FCODE alone, and has a branch for each of the two codes. -/
theorem exitStatusOfStartupFaults : Obligations.ExitStatusOfStartupFaults := by
  intro s
  refine ⟨fun h => ?_, fun h => ?_, fun hconfig hdevice => ?_⟩ <;> unfold State.exitStatus
  · rw [h]
  · rw [h]
  · split
    · contradiction
    · contradiction
    · rfl

end Sys2Proof.Machine
end

section
/-! What a time in range shows on the panel (R129, R130, R131). -/

namespace Sys2Proof.Machine

/-- A latch with inverted bytes shows what the bytes stand for. -/
theorem displayReading_holds_inv (x y : Byte) : displayReading (.holds (inv x) (inv y)) = (unbcd x, unbcd y) := by
  simp only [displayReading, inv_inv]

/-- Settles O36: `unbcd` reads back the three registers, and the filler is no decimal number. -/
theorem latchShowsTheTime : Obligations.LatchShowsTheTime := by
  rintro fix c ⟨hsec, hmin, hhour, -⟩
  have hfiller : unbcd filler = none := by decide
  refine ⟨?_, ?_⟩ <;> rw [displayReading_holds_inv]
  · simp only [smPayload, unbcd_bcd (by omega : c.sec.toNat ≤ 99), unbcd_bcd (by omega : c.min.toNat ≤ 99)]
  · simp only [hPayload, unbcd_bcd (by omega : c.hour.toNat ≤ 99), hfiller]

/-- A line of an inverted byte is lit exactly where the byte before inversion has a 1. -/
theorem ledLit_inv (x : Byte) (i : Fin 8) : ledLit (inv x) i = x.getLsbD i := by
  rw [ledLit, getLsbD_inv x i.isLt, Bool.not_not]

/-- The bits at and above a power of two that the byte is below are clear, so their lines are dark. -/
theorem ledLit_inv_eq_false {x : Byte} {k : Nat} {i : Fin 8} (hx : x.toNat < 2 ^ k) (hk : k ≤ i) :
    ledLit (inv x) i = false := by
  rw [ledLit_inv, BitVec.getLsbD]
  exact Nat.testBit_lt_two_pow (hx.trans_le (Nat.pow_le_pow_right (by decide) hk))

theorem ledLit_inv_filler (i : Fin 8) : ledLit (inv filler) i = true := by
  rw [ledLit_inv]
  revert i
  decide

/-- Settles O37: the codes of seconds and minutes are below 2^7 and those of hours below 2^5; the filler and the
initialisation bytes are all ones; the code of 0 is 0. -/
theorem panelLinesFixedByRange : Obligations.PanelLinesFixedByRange := by
  rintro fix c ⟨hsec, hmin, hhour, -⟩
  have hsmall {n k : Nat} (hn : n ≤ 99) (hk : n / 10 * 16 + n % 10 < k) : (bcd n).toNat < k := by
    rwa [bcd_toNat_of_le hn]
  have hsec7 : (bcd c.sec.toNat).toNat < 2 ^ 7 := hsmall (by omega) (by omega)
  have hmin7 : (bcd c.min.toNat).toNat < 2 ^ 7 := hsmall (by omega) (by omega)
  have hhour5 : (bcd c.hour.toNat).toNat < 2 ^ 5 := hsmall (by omega) (by omega)
  refine ⟨ledLit_inv_eq_false hsec7 le_rfl, ledLit_inv_eq_false hmin7 le_rfl, ledLit_inv_eq_false hhour5 le_rfl,
    ledLit_inv_eq_false hhour5 (by decide), ledLit_inv_eq_false hhour5 (by decide),
    ⟨(by decide : inv filler = 0x00#8), ledLit_inv_filler⟩,
    fun d i => ⟨ledLit_inv_filler i, ledLit_inv_filler i⟩, fun hs hm => ?_⟩
  simp only [Payload.wire, smPayload, hs, hm]
  decide

end Sys2Proof.Machine
end

section
/-! The host's primitives and the writer's transfer (R42, R44, R45, R127), and the faults of the model (log 9). -/

namespace Sys2Proof.Machine

/-- Settles O38: each primitive appends its event with the answer, and only `open` touches the record of the calls and
a handle. -/
theorem hostAnswersAreLogged : Obligations.HostAnswersAreLogged := by
  intro s d w0 w1
  refine ⟨s.afterNow_log, s.afterOpen_log d, ?calls, rfl, s.busWrite_openCalls d w0 w1, s.busWrite_log d w0 w1,
    fun hok => ?ok, fun herror => ?error, fun e he => ?other⟩
  case calls => rw [State.afterOpen_openCalls]; cases d <;> rfl
  case ok => rw [State.handle_afterOpen, if_pos ⟨hok, rfl⟩]
  case error => rw [State.handle_afterOpen, if_neg (by simp [herror])]
  case other => rw [State.handle_afterOpen, if_neg (fun h => he h.2.symm)]

/-- Settles O40: in FATAL the check stops the writer, and else the step is the transfer of the head of the queue. -/
theorem writerSendsTheHead : Obligations.WriterSendsTheHead := by
  intro s p q hwq
  refine ⟨writerTurn_of_fatal, fun hphase hopen => ⟨_, writerTurn_of_cons hphase hwq hopen, ?_⟩⟩
  have hblock := writerLeavesBlock_sendPayload (p := p) hwq
  exact ⟨State.busWrite_wq .., State.sendPayload_log _ p, State.latch_busWrite_self _ _ _ _,
    fun e he => (State.latch_busWrite_of_ne _ _ _ he).trans (by cases e <;> rfl), hblock.clock, hblock.phase,
    hblock.fault, hblock.fcode, hblock.handleA, hblock.handleB, State.busWrite_cfg .., State.busWrite_outs ..,
    State.busWrite_openCalls .., State.busWrite_sched ..⟩

theorem exec_tick_of_noValue {s : State} (hphase : s.phase = .run) (hwq : s.wq = []) (hclock : s.clock = none) :
    exec .tick s = .fault .noValue := by
  change execTick s = _
  rw [execTick, State.ifNotFatal_of_ne (State.phase_ne_fatal_of_run hphase), if_neg (State.not_busy_of_nil hwq),
    if_neg (State.phase_ne_off_of_run hphase), hclock]

theorem writerTurn_of_closed {s : State} {p : Payload} {q : List Payload} (hphase : s.phase ≠ .fatal)
    (hwq : s.wq = p :: q) (hclosed : s.handle p.dev = .closed) : writerTurn s = .fault .handleClosed := by
  simp only [writerTurn, State.ifNotFatal_of_ne hphase, hwq, hclosed]

/-- Settles O26: each stop stands behind the checks of R153 and is the next thing looked at. -/
theorem modelFaultsStopByName : Obligations.ModelFaultsStopByName := by
  intro s hphase
  refine ⟨exec_tick_of_noValue, fun c hrun hwq hclock hsec hmin => ?_, fun p q => writerTurn_of_closed hphase⟩
  have hnoCarry : ¬ 59 < (c.sec + 1).toNat := by rw [toNat_succ_of_lt (by omega)]; omega
  rw [exec_tick_of_run hrun hwq hclock, tickStep, if_neg hnoCarry]
  exact if_pos hmin

end Sys2Proof.Machine
end

section
/-! What an instruction can do, said once for all of them (R15, R17): what it never touches, and the four ways it ends.
The whole-machine rules are derived from these. -/

namespace Sys2Proof.Machine

/-! ### What no instruction touches -/

/-- From `s` to `t` the latches, the configuration and the schedule stay, LOG gains answers of the host clock and of
`open` but no write, and the record of the calls of `open` only grows, and stays but for START. -/
structure InstrFrame (i : Instr) (s t : State) : Prop where
  latchA    : t.latchA = s.latchA
  latchB    : t.latchB = s.latchB
  cfg       : t.cfg = s.cfg
  sched     : t.sched = s.sched
  log       : ∃ es, t.log = s.log ++ es ∧ ∀ d, lastWritten d es = none
  openCalls : s.openCalls <+: t.openCalls
  calls     : i ≠ .start → t.openCalls = s.openCalls

namespace InstrFrame

variable {i : Instr} {s u : State}

theorem refl (i : Instr) (s : State) : InstrFrame i s s :=
  ⟨rfl, rfl, rfl, rfl, ⟨[], (List.append_nil _).symm, fun _ => rfl⟩, List.prefix_rfl, fun _ => rfl⟩

/-- The log part of the frame after one more event that is no write. -/
theorem log_concat (h : InstrFrame i s u) (e : Event) (he : ∀ d, lastWritten d [e] = none) :
    ∃ es, u.log ++ [e] = s.log ++ es ∧ ∀ d, lastWritten d es = none := by
  obtain ⟨es, hlog, hnone⟩ := h.log
  refine ⟨es ++ [e], by rw [hlog, List.append_assoc], fun d => ?_⟩
  rw [lastWritten_append, he, hnone]; rfl

theorem afterNow (h : InstrFrame i s u) : InstrFrame i s u.afterNow :=
  { h with log := h.log_concat _ fun _ => rfl }

theorem afterOpen (h : InstrFrame .start s u) (d : Device) : InstrFrame .start s (u.afterOpen d) where
  latchA    := (State.afterOpen_latchA u d).trans h.latchA
  latchB    := (State.afterOpen_latchB u d).trans h.latchB
  cfg       := (State.afterOpen_cfg u d).trans h.cfg
  sched     := (State.afterOpen_sched u d).trans h.sched
  log       := by rw [State.afterOpen_log]; exact h.log_concat _ fun _ => rfl
  openCalls := by rw [State.afterOpen_openCalls]; exact h.openCalls.trans (List.prefix_append _ _)
  calls     := fun hne => absurd rfl hne

theorem enqueue (h : InstrFrame i s u) (p : Payload) : InstrFrame i s (u.enqueue p) := { h with }

theorem withClock (h : InstrFrame i s u) (c : Clock) : InstrFrame i s (u.withClock c) := { h with }

theorem setPhase (h : InstrFrame i s u) (p : Phase) : InstrFrame i s { u with phase := p } := { h with }

/-- A fault keeps LOG and the calls of `open` (R17), and takes the rest from the state before the step. -/
theorem raiseAt (h : InstrFrame i s u) (code : FCode) : InstrFrame i s (s.raiseAt code u) :=
  { h with latchA := rfl, latchB := rfl, cfg := rfl, sched := rfl }

theorem bothOpened (s : State) : InstrFrame .start s s.bothOpened := ((refl .start s).afterOpen .a).afterOpen .b

end InstrFrame

/-! ### A command that completes -/

/-- The payloads a command queues, in the order of R103, when it ends in the registers `c`. -/
inductive Emission : Instr → Clock → List Payload → Prop
  | tick (c : Clock) : Emission .tick c [smPayload c]
  | tickHour (c : Clock) : Emission .tick c [hPayload c, smPayload c]
  | tickWrap (c : Clock) : Emission .tick c [smPayload c, hPayload c, hPayload c, smPayload c]
  | resync (c : Clock) : Emission .resync c [smPayload c, hPayload c]
  | start (c : Clock) : Emission .start c [initPayload .a, initPayload .b, smPayload c, hPayload c]

/-- A START, TICK or RESYNC that raises no fault: it ends in phase RUN in the registers `c` with `q` queued. -/
structure Completes (i : Instr) (s t : State) (c : Clock) (q : List Payload) : Prop where
  frame    : InstrFrame i s t
  idle     : s.wq = []
  before   : s.phase = if i = .start then .off else .run
  phase    : t.phase = .run
  clock    : t.clock = some c
  inRange  : s.clockOk = true → c.InRange s.cfg.midnightFix
  wq       : t.wq = q
  emission : Emission i c q
  handleA  : t.handleA = if i = .start then .opened else s.handleA
  handleB  : t.handleB = if i = .start then .opened else s.handleB
  fault    : t.fault = s.fault
  fcode    : t.fcode = s.fcode
  outs     : t.outs = s.outs

/-- Where the invariant of the registers holds, registers that hold a value are in range (R25). -/
theorem State.inRange_of_clockOk {s : State} {c : Clock} (h : s.clockOk = true) (hclock : s.clock = some c) :
    c.InRange s.cfg.midnightFix := by
  rw [State.clockOk, hclock, Bool.and_eq_true, decide_eq_true_eq] at h
  exact h.2

/-- The body of TICK completes in cases T1 to T4, and else raises HOST_RANGE. -/
theorem tickStep_completes {s t : State} {c₀ : Clock} (hwq : s.wq = []) (hphase : s.phase = .run)
    (hclock : s.clock = some c₀) (h : tickStep c₀ s = .next t) :
    (∃ c q, Completes .tick s t c q) ∨ t = s.raiseAt .hostRange s.afterNow := by
  have hframe : InstrFrame .tick s s := InstrFrame.refl _ _
  have hrange (hok : s.clockOk = true) : c₀.InRange s.cfg.midnightFix := s.inRange_of_clockOk hok hclock
  obtain ⟨hsec, -, rfl⟩ | ⟨-, hmin, rfl⟩ | ⟨-, -, hhour, rfl⟩ | ⟨-, -, -, hnow, rfl⟩ | ⟨-, -, -, -, rfl⟩ :=
    tickStep_next h
  · refine .inl ⟨_, _, { hframe with }, hwq, hphase, hphase, rfl, fun hok => ?_, by simp [hwq],
      .tick _, rfl, rfl, rfl, rfl, rfl⟩
    exact ⟨hsec, (hrange hok).2⟩
  · refine .inl ⟨_, _, { hframe with }, hwq, hphase, hphase, rfl, fun hok => ?_, by simp [hwq],
      .tick _, rfl, rfl, rfl, rfl, rfl⟩
    obtain ⟨-, -, hhour⟩ := hrange hok
    exact ⟨Nat.zero_le _, hmin, hhour⟩
  · refine .inl ⟨_, _, { hframe with }, hwq, hphase, hphase, rfl, fun hok => ?_,
      by simp [hwq], .tickHour _, rfl, rfl, rfl, rfl, rfl⟩
    obtain ⟨-, -, hle, -⟩ := hrange hok
    refine ⟨Nat.zero_le _, Nat.zero_le _, hhour, fun _ => ?_⟩
    have hsucc : (c₀.hour + 1).toNat = c₀.hour.toNat + 1 := toNat_succ_of_lt (by omega)
    show 1 ≤ (c₀.hour + 1).toNat
    rw [hsucc]; exact Nat.le_add_left 1 _
  · exact .inl ⟨_, _, ((((hframe.afterNow.enqueue _).enqueue _).enqueue _).enqueue _).withClock _, hwq, hphase,
      by simp [hphase], State.withClock_clock _ _, fun _ => State.nextClock_inRange hnow, by simp [hwq], .tickWrap _,
      by simp, by simp, by simp, by simp, by simp⟩
  · exact .inr rfl

/-- RESYNC with a host answer in its contract (case RS). -/
theorem resync_completes {s : State} (hwq : s.wq = []) (hphase : s.phase = .run) (hnow : hostTimeOk s.nextNow = true) :
    ∃ c q, Completes .resync s
      (((s.afterNow.enqueue (smPayload s.nextClock)).enqueue (hPayload s.nextClock)).withClock s.nextClock) c q :=
  ⟨_, _, { (InstrFrame.refl _ s).afterNow with }, hwq, hphase, hphase, rfl,
    fun _ => State.nextClock_inRange hnow, by simp [hwq], .resync _, rfl, rfl, rfl, rfl, rfl⟩

/-- The state with both devices open has kept all of the block but the handles. -/
structure BothOpened (s u : State) : Prop where
  frame   : InstrFrame .start s u
  handleA : u.handleA = .opened
  handleB : u.handleB = .opened
  wq      : u.wq = s.wq
  fault   : u.fault = s.fault
  fcode   : u.fcode = s.fcode
  outs    : u.outs = s.outs

theorem bothOpened_of_ok {s : State} (hA : s.nextOpen .a = .ok) (hB : (s.afterOpen .a).nextOpen .b = .ok) :
    BothOpened s s.bothOpened where
  frame   := InstrFrame.bothOpened s
  handleA := by simp [State.bothOpened, hA]
  handleB := by simp [State.bothOpened, hB]
  wq      := by simp [State.bothOpened]
  fault   := s.bothOpened_fault
  fcode   := by simp [State.bothOpened]
  outs    := by simp [State.bothOpened]

/-- START after both opens completes (case ST), or raises HOST_RANGE. -/
theorem startDevicesOpen_completes {s u : State} (hwq : s.wq = []) (hphase : s.phase = .off) (hu : BothOpened s u) :
    (∃ c q, Completes .start s (startDevicesOpen s u) c q) ∨
      startDevicesOpen s u = s.raiseAt .hostRange u.afterNow := by
  obtain ⟨hnow, heq⟩ | ⟨-, heq⟩ := startDevicesOpen_cases s u
  · rw [heq]
    exact .inl ⟨_, _,
      { frame    := (((((hu.frame.afterNow.enqueue _).enqueue _).enqueue _).enqueue _).withClock _).setPhase _
        idle     := hwq
        before   := hphase
        phase    := rfl
        clock    := by dsimp only; exact State.withClock_clock _ _
        inRange  := fun _ => hu.frame.cfg ▸ State.nextClock_inRange hnow
        wq       := by simp [hu.wq, hwq]
        emission := .start _
        handleA  := by simp [hu.handleA]
        handleB  := by simp [hu.handleB]
        fault    := by simp [hu.fault]
        fcode    := by simp [hu.fcode]
        outs     := by simp [hu.outs] }⟩
  · exact .inr heq

/-! ### The four ways an instruction ends -/

/-- The next state of an instruction: a fault raised, with a code that the checks of R153 allow for the queue; NOP's;
an output of the codec or the inverter port; or a command completed. -/
inductive Ran (i : Instr) (s : State) : State → Prop
  | raised {code : FCode} {u : State} (hcode : code ≠ .none)
      (hfits : ({ s with fcode := code } : State).fcodeOk = true) (hframe : InstrFrame i s u) :
      Ran i s (s.raiseAt code u)
  | unchanged (hi : i = .nop) : Ran i s s
  | output (o : PortOut) (hi : i.format ≠ .cmd) : Ran i s (s.output o)
  | completed {t : State} {c : Clock} {q : List Payload} (h : Completes i s t c q) : Ran i s t

/-- The codes checked after OVERLAP are raised with nothing waiting. -/
theorem State.fcodeOk_of_nil {s : State} {code : FCode} (hwq : s.wq = []) (hcode : code ≠ .overlap) :
    ({ s with fcode := code } : State).fcodeOk = true := by
  cases code with
  | overlap => exact absurd rfl hcode
  | none | illegalCmd | notStarted | restart | config | deviceCreate | hostRange | bcdRange =>
    simp [State.fcodeOk, hwq]

theorem State.fcodeOk_overlap {s : State} (hwq : s.wq ≠ []) :
    ({ s with fcode := .overlap } : State).fcodeOk = true := by
  simpa [State.fcodeOk] using hwq

section
variable {i : Instr} {s t : State}

theorem ran_overlap (hwq : s.wq ≠ []) : Ran i s (s.raise .overlap) :=
  .raised (by decide) (State.fcodeOk_overlap hwq) (InstrFrame.refl _ _)

theorem ran_raised_of_nil {code : FCode} {u : State} (hwq : s.wq = []) (hcode : code ≠ .none ∧ code ≠ .overlap)
    (hframe : InstrFrame i s u) : Ran i s (s.raiseAt code u) :=
  .raised hcode.1 (State.fcodeOk_of_nil hwq hcode.2) hframe

theorem ran_start (h : execStart s = .next t) : Ran .start s t := by
  have hframe : InstrFrame .start s s := InstrFrame.refl _ _
  obtain ⟨-, ⟨hwq, rfl⟩ | ⟨hwq, -, rfl⟩ | ⟨hwq, -, -, rfl⟩ | ⟨hwq, -, -, -, rfl⟩ | ⟨hwq, -, -, -, -, rfl⟩ |
    ⟨hwq, hphase, -, hA, hB, rfl⟩⟩ := execStart_next h
  · exact ran_overlap hwq
  · exact ran_raised_of_nil hwq (by decide) hframe
  · exact ran_raised_of_nil hwq (by decide) hframe
  · exact ran_raised_of_nil hwq (by decide) (hframe.afterOpen .a)
  · exact ran_raised_of_nil hwq (by decide) (InstrFrame.bothOpened s)
  · obtain ⟨c, q, hdone⟩ | heq := startDevicesOpen_completes hwq hphase (bothOpened_of_ok hA hB)
    · exact .completed hdone
    · rw [heq]
      exact ran_raised_of_nil hwq (by decide) (InstrFrame.bothOpened s).afterNow

theorem ran_tick (h : execTick s = .next t) : Ran .tick s t := by
  have hframe : InstrFrame .tick s s := InstrFrame.refl _ _
  obtain ⟨-, ⟨hwq, rfl⟩ | ⟨hwq, -, rfl⟩ | ⟨hwq, hphase, c₀, hclock, htick⟩⟩ := execTick_next h
  · exact ran_overlap hwq
  · exact ran_raised_of_nil hwq (by decide) hframe
  · obtain ⟨c, q, hdone⟩ | rfl := tickStep_completes hwq hphase hclock htick
    · exact .completed hdone
    · exact ran_raised_of_nil hwq (by decide) hframe.afterNow

theorem ran_resync (h : execResync s = .next t) : Ran .resync s t := by
  have hframe : InstrFrame .resync s s := InstrFrame.refl _ _
  obtain ⟨-, ⟨hwq, rfl⟩ | ⟨hwq, -, rfl⟩ | ⟨hwq, -, -, rfl⟩ | ⟨hwq, hphase, hnow, rfl⟩⟩ := execResync_next h
  · exact ran_overlap hwq
  · exact ran_raised_of_nil hwq (by decide) hframe
  · exact ran_raised_of_nil hwq (by decide) hframe.afterNow
  · obtain ⟨c, q, hdone⟩ := resync_completes hwq hphase hnow
    exact .completed hdone

theorem ran_encode {n : Byte} (h : execEncode n s = .next t) : Ran (.encode n) s t := by
  obtain ⟨-, ⟨-, rfl⟩ | ⟨-, -, rfl⟩ | ⟨-, -, rfl⟩⟩ := execEncode_next h
  · exact .output _ nofun
  · exact .raised (by decide) rfl (InstrFrame.refl _ _)
  · exact .output _ nofun

/-- An instruction has a step outside FATAL only (R143), and it ends in one of the four ways. -/
theorem exec_next (h : exec i s = .next t) : s.phase ≠ .fatal ∧ Ran i s t := by
  cases i with
  | nop =>
    obtain ⟨hphase, rfl⟩ := execNop_next h
    exact ⟨hphase, .unchanged rfl⟩
  | start => exact ⟨(execStart_next h).1, ran_start h⟩
  | tick => exact ⟨(execTick_next h).1, ran_tick h⟩
  | resync => exact ⟨(execResync_next h).1, ran_resync h⟩
  | encode n => exact ⟨(execEncode_next h).1, ran_encode h⟩
  | invert in0 in1 =>
    obtain ⟨hphase, rfl⟩ := execInvert_next h
    exact ⟨hphase, .output _ nofun⟩
  | illegal rsv op =>
    obtain ⟨hphase, rfl⟩ := execIllegal_next rsv op h
    exact ⟨hphase, .raised (by decide) rfl (InstrFrame.refl _ _)⟩

/-- Whatever way it ends, an instruction keeps its frame. -/
theorem Ran.frame (h : Ran i s t) : InstrFrame i s t := by
  cases h with
  | raised _ _ hframe => exact hframe.raiseAt _
  | unchanged _ => exact InstrFrame.refl _ _
  | output o _ => exact { InstrFrame.refl i s with }
  | completed h => exact h.frame

end

end Sys2Proof.Machine
end

section
/-! The invariant of the machine, and that every step keeps it. -/

namespace Sys2Proof.Machine

/-! ### The parts of the invariant as propositions -/

theorem State.clockOk_iff {s : State} : s.clockOk = true ↔
    (s.clock = none → s.phase ≠ .run) ∧ ∀ c, s.clock = some c → s.phase ≠ .off ∧ c.InRange s.cfg.midnightFix := by
  unfold State.clockOk
  cases s.clock with
  | none => simp
  | some c =>
    simp only [Bool.and_eq_true, bne_iff_ne, decide_eq_true_eq, reduceCtorEq, false_implies, true_and,
      Option.some.injEq, forall_eq']

theorem State.queueOk_iff {s : State} : s.queueOk = true ↔
    s.wq.length ≤ 4 ∧ (∀ p ∈ s.wq, p.isKind = true) ∧
    (s.phase = .off → s.wq = [] ∧ s.handleA = .closed ∧ s.handleB = .closed) ∧
    (s.phase = .run → s.handleA = .opened ∧ s.handleB = .opened) ∧
    (s.phase = .fatal → s.wq = [] ∨ s.handleA = .opened ∧ s.handleB = .opened) := by
  unfold State.queueOk
  cases s.phase <;> simp [and_assoc]

theorem State.wq_nil_of_off {s : State} (h : s.queueOk = true) (hphase : s.phase = .off) : s.wq = [] := by
  obtain ⟨-, -, hoff, -⟩ := State.queueOk_iff.mp h
  exact (hoff hphase).1

theorem State.handles_opened_of_run {s : State} (h : s.queueOk = true) (hphase : s.phase = .run) :
    s.handleA = .opened ∧ s.handleB = .opened := by
  obtain ⟨-, -, -, hrun, -⟩ := State.queueOk_iff.mp h
  exact hrun hphase

/-- Outside FATAL nothing has been raised (R27, R28). -/
theorem State.StatusOk.no_fault {s : State} (h : s.StatusOk) (hphase : s.phase ≠ .fatal) :
    s.fault = false ∧ s.fcode = .none := by
  have hfault : s.fault = false := Bool.not_eq_true _ ▸ mt h.1.mpr hphase
  exact ⟨hfault, h.2.mpr hfault⟩

theorem State.fcodeOk_of_none {s : State} (h : s.fcode = .none) : s.fcodeOk = true := by
  rw [State.fcodeOk, h]

/-- Outside FATAL a state meets the invariant as soon as nothing is raised and the clock and the queue are right. -/
theorem State.Inv.of_ne_fatal {t : State} (hphase : t.phase ≠ .fatal) (hfault : t.fault = false)
    (hfcode : t.fcode = .none) (hclock : t.clockOk = true) (hqueue : t.queueOk = true) : t.Inv :=
  ⟨⟨by simp [hphase, hfault], by simp [hfcode, hfault]⟩, hclock, hqueue, State.fcodeOk_of_none hfcode⟩

/-! ### The ways an instruction ends -/

section
variable {i : Instr} {s t : State}

/-- A fault keeps the clock, the queue and the handles, of which FATAL asks no more than OFF and RUN do. -/
theorem inv_raiseAt {code : FCode} (u : State) (h : s.Inv) (hphase : s.phase ≠ .fatal) (hcode : code ≠ .none)
    (hfits : ({ s with fcode := code } : State).fcodeOk = true) : (s.raiseAt code u).Inv := by
  obtain ⟨hstatus, hclock, hqueue, -⟩ := h
  have hfcode : (s.raiseAt code u).fcode = code := State.raiseAt_fcode_of_noFault u code (hstatus.no_fault hphase).1
  have hrange := (State.clockOk_iff.mp hclock).2
  obtain ⟨hlength, hkind, hoff, hrun, -⟩ := State.queueOk_iff.mp hqueue
  refine ⟨⟨by simp, by rw [hfcode]; simp [hcode]⟩,
    State.clockOk_iff.mpr ⟨by simp, fun c hc => ⟨by simp, (hrange c hc).2⟩⟩,
    State.queueOk_iff.mpr ⟨hlength, hkind, by simp, by simp, fun _ => ?queue⟩, ?fcode⟩
  case queue =>
    cases hp : s.phase with
    | off => exact .inl (hoff hp).1
    | run => exact .inr (hrun hp)
    | fatal => exact absurd hp hphase
  case fcode =>
    rw [State.fcodeOk, hfcode]
    exact hfits

/-- What a command queues is at most four payloads of the kinds of R120. -/
theorem Emission.isKind {c : Clock} {q : List Payload} {fix : Bool} (h : Emission i c q) (hc : c.InRange fix) :
    q.length ≤ 4 ∧ ∀ p ∈ q, p.isKind = true := by
  obtain ⟨hsec, hmin, hhour, -⟩ := hc
  have hsm := smPayload_isKind hsec hmin
  have hh := hPayload_isKind hhour
  cases h <;> simp [hsm, hh, initPayload_isKind]

theorem Completes.inv {c : Clock} {q : List Payload} (hdone : Completes i s t c q) (h : s.Inv) : t.Inv := by
  obtain ⟨hstatus, hclock, hqueue, -⟩ := h
  have hphase : s.phase ≠ .fatal := by rw [hdone.before]; split <;> decide
  have hrange : c.InRange t.cfg.midnightFix := hdone.frame.cfg ▸ hdone.inRange hclock
  have hopen : t.handleA = .opened ∧ t.handleB = .opened := by
    rw [hdone.handleA, hdone.handleB]
    split
    · exact ⟨rfl, rfl⟩
    · next hi => exact State.handles_opened_of_run hqueue (by rw [hdone.before, if_neg hi])
  obtain ⟨hlength, hkind⟩ := hdone.emission.isKind hrange
  refine State.Inv.of_ne_fatal (by rw [hdone.phase]; decide) (hdone.fault.trans (hstatus.no_fault hphase).1)
    (hdone.fcode.trans (hstatus.no_fault hphase).2) ?clock ?queue
  case clock => simpa [State.clockOk_iff, hdone.clock, hdone.phase] using hrange
  case queue => exact State.queueOk_iff.mpr (by simpa [hdone.phase, hdone.wq, hopen] using ⟨hlength, hkind⟩)

theorem Ran.inv (h : Ran i s t) (hs : s.Inv) (hphase : s.phase ≠ .fatal) : t.Inv := by
  cases h with
  | raised hcode hfits _ => exact inv_raiseAt _ hs hphase hcode hfits
  | unchanged _ => exact hs
  | output o _ => exact hs
  | completed hdone => exact hdone.inv hs

theorem writerTurn_cfg (h : writerTurn s = .next t) : t.cfg = s.cfg := by
  obtain ⟨-, ⟨-, rfl⟩ | ⟨p, q, -, -, rfl⟩⟩ := writerTurn_next h
  · rfl
  · exact State.busWrite_cfg ..

/-- The writer agent takes an entry off the queue outside FATAL, and the rest of the block stays (R127, R128). -/
theorem writerTurn_inv (h : writerTurn s = .next t) (hs : s.Inv) : t.Inv := by
  obtain ⟨hstatus, hclock, hqueue, -⟩ := hs
  have hcfg : t.cfg = s.cfg := writerTurn_cfg h
  have hphase : s.phase ≠ .fatal := (writerTurn_next h).1
  have hblock := writerLeavesBlock_of_writerTurn h
  obtain ⟨hlength, hkind, hoff, hrun, -⟩ := State.queueOk_iff.mp hqueue
  refine State.Inv.of_ne_fatal (hblock.phase ▸ hphase) (hblock.fault.trans (hstatus.no_fault hphase).1)
    (hblock.fcode.trans (hstatus.no_fault hphase).2) ?clock ?queue
  case clock => rwa [State.clockOk, hblock.clock, hblock.phase, hcfg]
  case queue =>
    rw [State.queueOk_iff, hblock.phase, hblock.wq, hblock.handleA, hblock.handleB]
    refine ⟨by rw [List.length_tail]; omega, fun p hp => hkind p (List.mem_of_mem_tail hp), fun ho => ?_, hrun,
      fun hf => absurd hf hphase⟩
    obtain ⟨hwq, hclosed⟩ := hoff ho
    exact ⟨by rw [hwq]; rfl, hclosed⟩

/-- A reset leaves the clock without a value, nothing queued and both handles closed (R38). -/
theorem inv_blockReset (s : State) : s.blockReset.Inv :=
  State.Inv.of_ne_fatal (State.phase_ne_fatal_of_off rfl) rfl rfl rfl rfl

end

/-- Settles O49: an instruction by the way it ends, the writer by what it leaves; the host's moves touch no field of
the invariant, and a reset sets them all. -/
theorem stepKeepsInvariant : Obligations.StepKeepsInvariant := by
  intro s t hs hstep
  obtain ⟨x, r, -, hexec⟩ | ⟨r, -, hwriter⟩ | ⟨r, -, -, rfl⟩ | ⟨a, r, -, rfl⟩ | ⟨r, -, rfl⟩ := step_next hstep
  · obtain ⟨hphase, hran⟩ := exec_next hexec
    exact hran.inv (s := { s with sched := r }) hs hphase
  · exact writerTurn_inv (s := { s with sched := r }) hwriter hs
  · exact hs
  · exact hs
  · exact inv_blockReset _

/-- Settles O48: at reset nothing is raised, the clock has no value, nothing waits, and LOG is empty. -/
theorem resetMeetsInvariant : Obligations.ResetMeetsInvariant :=
  ⟨State.Inv.of_ne_fatal (State.phase_ne_fatal_of_off rfl) rfl rfl rfl rfl, fun _ _ h => nomatch h⟩

end Sys2Proof.Machine
end

section
/-! The rules of the whole machine (R28, R31, R36, R52, R54, R155, R158), each by the kinds of move of `step_next`. -/

namespace Sys2Proof.Machine

/-- The strobe an instruction is decoded from is the one of its words. -/
theorem eq_encode_of_decode {x : Strobe} {i : Instr} (h : decode x = i) : x = encode i := by
  rw [← h, (encodeInvertsDecode x).1]

/-- START is presented by its word alone. -/
theorem presents_start {s : State} {x : Strobe} {r : List Stimulus} (hsched : s.sched = .present x :: r)
    (hi : decode x = .start) : ∃ r, s.sched = .present (.cmd 0x01#8) :: r :=
  ⟨r, by rw [hsched, eq_encode_of_decode hi]; rfl⟩

section
variable {i : Instr} {s t : State}

/-- No step writes the configuration (R20). -/
theorem step_cfg (hstep : step s = .next t) : t.cfg = s.cfg := by
  obtain ⟨x, r, -, hexec⟩ | ⟨r, -, hwriter⟩ | ⟨r, -, -, rfl⟩ | ⟨a, r, -, rfl⟩ | ⟨r, -, rfl⟩ := step_next hstep
  · exact (exec_next hexec).2.frame.cfg
  · exact writerTurn_cfg (s := { s with sched := r }) hwriter
  · rfl
  · rfl
  · rfl

end

/-! ### PHASE and FAULT (R28) -/

section
variable {i : Instr} {s t : State}

/-- How an instruction moves PHASE and FAULT. -/
theorem Ran.phase (h : Ran i s t) :
    (t.phase = s.phase ∧ t.fault = s.fault) ∨
    (i = .start ∧ s.phase = .off ∧ t.phase = .run ∧ t.fault = s.fault) ∨
    (t.phase = .fatal ∧ t.fault = true) := by
  cases h with
  | raised _ _ _ => exact .inr (.inr ⟨rfl, rfl⟩)
  | unchanged _ => exact .inl ⟨rfl, rfl⟩
  | output o _ => exact .inl ⟨rfl, rfl⟩
  | completed hdone =>
    have hbefore := hdone.before
    split at hbefore
    · next hi => exact .inr (.inl ⟨hi, hbefore, hdone.phase, hdone.fault⟩)
    · exact .inl ⟨hdone.phase.trans hbefore.symm, hdone.fault⟩

end

/-- Settles O50: of the moves only an instruction and a reset change PHASE. -/
theorem phaseMovesOnlyAsStated : Obligations.PhaseMovesOnlyAsStated := by
  intro s t hs hstep
  have hkept (hphase : t.phase = s.phase) (hfault : t.fault = s.fault) : t.phase = .fatal ↔ t.fault = true := by
    rw [hphase, hfault]; exact hs.1
  obtain ⟨x, r, hsched, hexec⟩ | ⟨r, -, hwriter⟩ | ⟨r, -, -, rfl⟩ | ⟨a, r, -, rfl⟩ | ⟨r, hsched, rfl⟩ :=
    step_next hstep
  · obtain ⟨hphase, hran⟩ := exec_next hexec
    obtain ⟨hp, hf⟩ | ⟨hi, hoff, hrun, hf⟩ | ⟨hfatal, hf⟩ := hran.phase
    · exact ⟨hkept hp hf, .inl hp⟩
    · have hfault : t.fault = false := hf.trans (hs.no_fault hphase).1
      exact ⟨by simp [hrun, hfault], .inr (.inl ⟨hoff, hrun, presents_start hsched hi⟩)⟩
    · exact ⟨by simp [hfatal, hf], .inr (.inr (.inl ⟨hphase, hfatal, hf⟩))⟩
  · have hblock := writerLeavesBlock_of_writerTurn hwriter
    exact ⟨hkept hblock.phase hblock.fault, .inl hblock.phase⟩
  · exact ⟨hs.1, .inl rfl⟩
  · exact ⟨hs.1, .inl rfl⟩
  · exact ⟨by simp, .inr (.inr (.inr ⟨rfl, r, hsched⟩))⟩

/-- Settles O51: instructions and the writer have no step in FATAL, a wait ends, and the other moves are the host's. -/
theorem onlyResetLeavesFatal : Obligations.OnlyResetLeavesFatal := by
  intro s t hfatal hstep
  obtain ⟨x, r, -, hexec⟩ | ⟨r, -, hwriter⟩ | ⟨r, -, -, rfl⟩ | ⟨a, r, -, rfl⟩ | ⟨r, hsched, -⟩ := step_next hstep
  · exact absurd hfatal (exec_next hexec).1
  · exact absurd hfatal (writerTurn_next hwriter).1
  · exact .inr rfl
  · exact .inr rfl
  · exact .inl ⟨r, hsched⟩

/-! ### The handles (R31) -/

section
variable {i : Instr} {s t : State}

theorem Completes.handle {c : Clock} {q : List Payload} (h : Completes i s t c q) (d : Device) :
    t.handle d = if i = .start then .opened else s.handle d := by
  cases d with
  | a => exact h.handleA
  | b => exact h.handleB

/-- An instruction leaves a handle, or it is START and has opened it. -/
theorem Ran.handle (h : Ran i s t) (d : Device) :
    t.handle d = s.handle d ∨ (i = .start ∧ t.handle d = .opened) := by
  cases h with
  | raised _ _ _ => cases d <;> exact .inl rfl
  | unchanged _ => exact .inl rfl
  | output o _ => cases d <;> exact .inl rfl
  | completed hdone =>
    rw [hdone.handle d]
    split
    · next hi => exact .inr ⟨hi, rfl⟩
    · exact .inl rfl

theorem WriterLeavesBlock.handle (h : WriterLeavesBlock s t) (d : Device) : t.handle d = s.handle d := by
  cases d with
  | a => exact h.handleA
  | b => exact h.handleB

end

/-- Settles O44: only an instruction that is START and a reset touch a handle. -/
theorem onlyStartOpensHandles : Obligations.OnlyStartOpensHandles := by
  intro s t d hstep
  have hkept (h : t.handle d = s.handle d) :
      (s.handle d = .opened → (∀ r, s.sched ≠ .reset :: r) → t.handle d = .opened) ∧
      (s.handle d = .closed → t.handle d = .opened → ∃ r, s.sched = .present (.cmd 0x01#8) :: r) := by
    rw [h]
    exact ⟨fun ho _ => ho, fun hc ho => nomatch hc.symm.trans ho⟩
  obtain ⟨x, r, hsched, hexec⟩ | ⟨r, -, hwriter⟩ | ⟨r, -, -, rfl⟩ | ⟨a, r, -, rfl⟩ | ⟨r, hsched, rfl⟩ :=
    step_next hstep
  · obtain h | ⟨hi, ho⟩ := (exec_next hexec).2.handle d
    · exact hkept (by cases d <;> exact h)
    · exact ⟨fun _ _ => ho, fun _ _ => presents_start hsched hi⟩
  · exact hkept (by cases d <;> exact (writerLeavesBlock_of_writerTurn hwriter).handle _)
  · exact hkept (by cases d <;> rfl)
  · exact hkept (by cases d <;> rfl)
  · exact ⟨fun _ hne => absurd hsched (hne r), fun _ ho => by cases d <;> cases ho⟩

/-! ### LOG and the latches (R36, R52) -/

section
variable {i : Instr} {s t : State}

/-- The writer agent's turn leaves LOG, or appends one write to it (R127). -/
theorem log_prefix_of_writerTurn (h : writerTurn s = .next t) : s.log <+: t.log := by
  obtain ⟨-, ⟨-, rfl⟩ | ⟨p, q, -, -, rfl⟩⟩ := writerTurn_next h
  · exact List.prefix_rfl
  · rw [State.sendPayload_log]
    exact List.prefix_append _ _

theorem InstrFrame.log_prefix (h : InstrFrame i s t) : s.log <+: t.log := by
  obtain ⟨es, hlog, -⟩ := h.log
  exact ⟨es, hlog.symm⟩

end

/-- Settles O56: instructions and the writer append their events, and only a reset clears LOG. -/
theorem logOnlyGrows : Obligations.LogOnlyGrows := by
  intro s t hstep hreset
  obtain ⟨x, r, -, hexec⟩ | ⟨r, -, hwriter⟩ | ⟨r, -, -, rfl⟩ | ⟨a, r, -, rfl⟩ | ⟨r, hsched, -⟩ := step_next hstep
  · exact (exec_next hexec).2.frame.log_prefix
  · exact log_prefix_of_writerTurn (s := { s with sched := r }) hwriter
  · exact List.prefix_rfl
  · exact List.prefix_rfl
  · exact absurd hsched (hreset r)

section
variable {i : Instr} {s t : State}

theorem InstrFrame.latch (h : InstrFrame i s t) (d : Device) : t.latch d = s.latch d := by
  cases d with
  | a => exact h.latchA
  | b => exact h.latchB

/-- An instruction writes nothing to the bus, so neither side of the rule changes. -/
theorem InstrFrame.latchesFollowLog (h : InstrFrame i s t) (hs : s.LatchesFollowLog) : t.LatchesFollowLog := by
  intro d l hlast
  obtain ⟨es, hlog, hnone⟩ := h.log
  rw [hlog, lastWritten_append, hnone, Option.none_or] at hlast
  rw [h.latch]
  exact hs d l hlast

/-- A write leaves in the latch of its device what it appends to LOG (R52). -/
theorem latchesFollowLog_busWrite (d : Device) (w0 w1 : Byte) (hs : s.LatchesFollowLog) :
    (s.busWrite d w0 w1).LatchesFollowLog := by
  intro e l hlast
  rw [State.busWrite_log, lastWritten_append] at hlast
  by_cases hde : d = e
  · subst hde
    rw [State.latch_busWrite_self]
    simpa [lastWritten] using hlast
  · rw [State.latch_busWrite_of_ne _ _ _ (Ne.symm hde)]
    exact hs e l (by simpa [lastWritten, hde] using hlast)

/-- The rule reads LOG and the latches only. -/
theorem latchesFollowLog_congr (hlog : t.log = s.log) (hlatch : ∀ d, t.latch d = s.latch d)
    (hs : s.LatchesFollowLog) : t.LatchesFollowLog := by
  intro d l hlast
  rw [hlatch]
  exact hs d l (hlog ▸ hlast)

theorem latchesFollowLog_writerTurn (h : writerTurn s = .next t) (hs : s.LatchesFollowLog) : t.LatchesFollowLog := by
  obtain ⟨-, ⟨-, rfl⟩ | ⟨p, q, -, -, rfl⟩⟩ := writerTurn_next h
  · exact hs
  · exact latchesFollowLog_busWrite _ _ _ (latchesFollowLog_congr (s := s) rfl (fun d => by cases d <;> rfl) hs)

end

/-- Settles O55: the writer's write reaches LOG and the latch together, no other move writes, and a reset leaves no
write in LOG. -/
theorem stepKeepsLatchesFollowingLog : Obligations.StepKeepsLatchesFollowingLog := by
  intro s t hs hstep
  have hsched (r : List Stimulus) (a : Answers) : ({ s with sched := r, answers := a } : State).LatchesFollowLog :=
    latchesFollowLog_congr (s := s) rfl (fun d => by cases d <;> rfl) hs
  obtain ⟨x, r, -, hexec⟩ | ⟨r, -, hwriter⟩ | ⟨r, -, -, rfl⟩ | ⟨a, r, -, rfl⟩ | ⟨r, -, rfl⟩ := step_next hstep
  · exact (exec_next hexec).2.frame.latchesFollowLog (hsched r s.answers)
  · exact latchesFollowLog_writerTurn hwriter (hsched r s.answers)
  · exact hsched r s.answers
  · exact hsched r a
  · exact fun _ _ hlast => nomatch hlast

/-! ### OVERLAP (R147, R158) -/

section
variable {i : Instr} {s t : State}

/-- An instruction leaves FCODE, or it has raised a fault where none was recorded. -/
theorem Ran.fcode (h : Ran i s t) : t.fcode = s.fcode ∨ (s.fault = false ∧ t.fault = true) := by
  cases h with
  | raised _ _ _ =>
    rw [State.raiseAt_fcode]
    cases hfault : s.fault with
    | true => exact .inl rfl
    | false => exact .inr ⟨rfl, rfl⟩
  | unchanged _ => exact .inl rfl
  | output o _ => exact .inl rfl
  | completed hdone => exact .inl hdone.fcode

/-- The three commands that raise OVERLAP are presented by the work words of duty H-D2. -/
theorem not_keepsOverlapDuty {x : Strobe} {r : List Stimulus} (hsched : s.sched = .present x :: r)
    (hi : decode x = .start ∨ decode x = .tick ∨ decode x = .resync) (hbusy : s.busy = true) :
    s.keepsOverlapDuty = false := by
  rw [State.keepsOverlapDuty, hsched]
  obtain h | h | h := hi <;> rw [eq_encode_of_decode h] <;> simp [encode, isWorkWord, hbusy]

end

/-- Settles O54: a code not recorded before has the cause R141 names, which for OVERLAP breaks the duty. -/
theorem hostDutyAvoidsOverlap : Obligations.HostDutyAvoidsOverlap := by
  intro s t hduty hs hstep
  obtain ⟨x, r, hsched, hexec⟩ | ⟨r, -, hwriter⟩ | ⟨r, -, -, rfl⟩ | ⟨a, r, -, rfl⟩ | ⟨r, -, rfl⟩ := step_next hstep
  · obtain hkept | ⟨hfault, hraised⟩ := (exec_next hexec).2.fcode
    · exact hkept ▸ hs
    · intro hover
      have hcause := faultCause_exec hexec hfault hraised
      rw [hover] at hcause
      obtain ⟨hi, hbusy⟩ := hcause
      rw [not_keepsOverlapDuty hsched hi hbusy] at hduty
      cases hduty
  · exact (writerLeavesBlock_of_writerTurn hwriter).fcode ▸ hs
  · exact hs
  · exact hs
  · exact nofun

/-! ### STATUS (R27) -/

/-- Settles O53: in FATAL FCODE holds a code, which tells what waits; outside FATAL it holds none, and nothing waits
in OFF. -/
theorem statusValuesAreThoseListed : Obligations.StatusValuesAreThoseListed := by
  rintro s ⟨hstatus, -, hqueue, hfits⟩
  cases hphase : s.phase with
  | off =>
    have hwq : s.wq = [] := State.wq_nil_of_off hqueue hphase
    obtain ⟨hfault, hcode⟩ := hstatus.no_fault (State.phase_ne_fatal_of_off hphase)
    rw [State.status_eq_zero hphase hfault hcode hwq]
    decide
  | run =>
    obtain ⟨hfault, hcode⟩ := hstatus.no_fault (State.phase_ne_fatal_of_run hphase)
    rw [State.status, hphase, hfault, hcode]
    cases s.busy <;> decide
  | fatal =>
    have hfault : s.fault = true := hstatus.1.mp hphase
    rw [State.status, hphase, hfault]
    rw [State.fcodeOk] at hfits
    cases hcode : s.fcode <;> rw [hcode] at hfits
    case none =>
      rw [hstatus.2.mp hcode] at hfault
      cases hfault
    case overlap =>
      rw [show s.busy = true from hfits]
      decide
    case illegalCmd | bcdRange => cases s.busy <;> decide
    case notStarted | restart | config | deviceCreate | hostRange =>
      rw [State.busy_eq_false.mpr (List.isEmpty_iff.mp hfits)]
      decide

/-! ### Every move has a next state (R26, R83, R127) -/

section
variable {i : Instr} {s t : State}

/-- In phase RUN the registers hold a value in range. -/
theorem State.Inv.clock_of_run (h : s.Inv) (hphase : s.phase = .run) :
    ∃ c, s.clock = some c ∧ c.InRange s.cfg.midnightFix := by
  obtain ⟨-, hclock, -, -⟩ := h
  obtain ⟨hnone, hrange⟩ := State.clockOk_iff.mp hclock
  cases hc : s.clock with
  | none => exact absurd hphase (hnone hc)
  | some c => exact ⟨c, rfl, (hrange c hc).2⟩

/-- `bcd` of minutes in range is in its contract (R83), so a TICK in range has a next state. -/
theorem exists_tickStep {c : Clock} (s : State) (h : c.min.toNat ≤ 99) : ∃ t, tickStep c s = .next t := by
  unfold tickStep
  by_cases hsec : 59 < (c.sec + 1).toNat
  · exact ⟨_, if_pos hsec⟩
  · exact ⟨_, (if_neg hsec).trans (if_neg (Nat.not_lt.mpr h))⟩

theorem exists_exec_tick (h : s.Inv) (hphase : s.phase ≠ .fatal) : ∃ t, exec .tick s = .next t := by
  by_cases hwq : s.wq = []
  · cases hp : s.phase with
    | off => exact ⟨_, exec_tick_of_off hp hwq⟩
    | run =>
      obtain ⟨c, hclock, -, hmin, -⟩ := h.clock_of_run hp
      rw [exec_tick_of_run hp hwq hclock]
      exact exists_tickStep s (by omega)
    | fatal => exact absurd hp hphase
  · exact ⟨_, exec_tick_of_busy hphase (State.busy_eq_true.mpr hwq)⟩

/-- Only TICK has a fault of the model, so only it needs the invariant (log 9). -/
theorem exists_exec (i : Instr) (h : s.Inv) (hphase : s.phase ≠ .fatal) : ∃ t, exec i s = .next t := by
  cases i with
  | tick => exact exists_exec_tick h hphase
  | nop | start | resync | encode n | invert in0 in1 | illegal rsv op => exact ⟨_, State.ifNotFatal_of_ne hphase⟩

/-- While an entry waits both handles are open (R127). -/
theorem State.Inv.handle_opened (h : s.Inv) (hwq : s.wq ≠ []) (d : Device) : s.handle d = .opened := by
  obtain ⟨-, -, hqueue, -⟩ := h
  obtain ⟨-, -, hoff, hrun, hfatal⟩ := State.queueOk_iff.mp hqueue
  have hopen : s.handleA = .opened ∧ s.handleB = .opened := by
    cases hphase : s.phase with
    | off => exact absurd (hoff hphase).1 hwq
    | run => exact hrun hphase
    | fatal => exact (hfatal hphase).resolve_left hwq
  cases d with
  | a => exact hopen.1
  | b => exact hopen.2

/-- In phase RUN both handles are open. -/
theorem State.Inv.handle_opened_of_run (h : s.Inv) (hphase : s.phase = .run) (d : Device) : s.handle d = .opened := by
  obtain ⟨-, -, hqueue, -⟩ := h
  obtain ⟨hA, hB⟩ := State.handles_opened_of_run hqueue hphase
  cases d with
  | a => exact hA
  | b => exact hB

theorem exists_writerTurn (h : s.Inv) (hphase : s.phase ≠ .fatal) : ∃ t, writerTurn s = .next t := by
  cases hwq : s.wq with
  | nil => exact ⟨_, writerTurn_of_nil hphase hwq⟩
  | cons p q => exact ⟨_, writerTurn_of_cons hphase hwq (h.handle_opened (by simp [hwq]) _)⟩

end

/-- Settles O52: an instruction and the writer's turn have a next state from the invariant, and the host's moves have
one always. -/
theorem noModelFaultFromInvariant : Obligations.NoModelFaultFromInvariant := by
  intro s h hphase
  refine ⟨fun i => exists_exec i h hphase, ?_⟩
  cases hsched : s.sched with
  | nil =>
    rw [step_of_nil hsched]
    exact exists_writerTurn h hphase
  | cons m r =>
    cases m with
    | present x =>
      rw [step_of_present hsched]
      exact exists_exec (s := { s with sched := r }) _ h hphase
    | drain =>
      rw [step_of_drain hsched]
      exact exists_writerTurn (s := { s with sched := r }) h hphase
    | wait =>
      by_cases hwq : s.wq = []
      · exact ⟨_, step_of_wait_of_done hsched (.inr hwq)⟩
      · rw [step_of_wait_of_busy hsched hphase hwq]
        exact exists_writerTurn h hphase
    | answers a => exact ⟨_, step_of_answers hsched⟩
    | reset => exact ⟨_, step_of_reset hsched⟩

end Sys2Proof.Machine
end

section
/-! START, TICK and RESYNC case by case (R103): one equation for each case, and what the commands leave unchanged. -/

namespace Sys2Proof.Machine

/-! ### The body of TICK (R93, R94, R97) -/

section
variable {s : State} {c : Clock}

theorem tickStep_of_noCarry (hsec : (c.sec + 1).toNat ≤ 59) (hmin : c.min.toNat ≤ 99) :
    tickStep c s = .next ((s.enqueue (smPayload { c with sec := c.sec + 1 })).withClock { c with sec := c.sec + 1 }) :=
  (if_neg (Nat.not_lt.mpr hsec)).trans (if_neg (Nat.not_lt.mpr hmin))

theorem tickStep_of_carry (hsec : 59 < (c.sec + 1).toNat) :
    tickStep c s = .next ((incMinute { c with sec := 0 } s).commit s) :=
  if_pos hsec

theorem tickStep_of_minute (hsec : 59 < (c.sec + 1).toNat) (hmin : (c.min + 1).toNat ≤ 59) :
    tickStep c s = .next ((s.enqueue (smPayload ⟨0, c.min + 1, c.hour⟩)).withClock ⟨0, c.min + 1, c.hour⟩) := by
  rw [tickStep_of_carry hsec, incMinute_of_le (c := { c with sec := 0 }) s hmin]; rfl

theorem tickStep_of_hour (hsec : 59 < (c.sec + 1).toNat) (hmin : 59 < (c.min + 1).toNat)
    (hhour : (c.hour + 1).toNat ≤ 12) :
    tickStep c s = .next (((s.enqueue (hPayload ⟨0, 0, c.hour + 1⟩)).enqueue
      (smPayload ⟨0, 0, c.hour + 1⟩)).withClock ⟨0, 0, c.hour + 1⟩) := by
  rw [tickStep_of_carry hsec, incMinute_of_gt (c := { c with sec := 0 }) s hmin,
    incHour_of_le (c := ⟨0, 0, c.hour⟩) s hhour]; rfl

theorem resync_of_ok (hnow : hostTimeOk s.nextNow = true) :
    resync s = .done s.nextClock ((s.afterNow.enqueue (smPayload s.nextClock)).enqueue (hPayload s.nextClock)) :=
  if_pos hnow

theorem tickStep_of_wrap (hsec : 59 < (c.sec + 1).toNat) (hmin : 59 < (c.min + 1).toNat)
    (hhour : 12 < (c.hour + 1).toNat) (hnow : hostTimeOk s.nextNow = true) :
    tickStep c s = .next (((((s.afterNow.enqueue (smPayload s.nextClock)).enqueue (hPayload s.nextClock)).enqueue
      (hPayload s.nextClock)).enqueue (smPayload s.nextClock)).withClock s.nextClock) := by
  rw [tickStep_of_carry hsec, incMinute_of_gt (c := { c with sec := 0 }) s hmin,
    incHour_of_gt (c := ⟨0, 0, c.hour⟩) s hhour, resync_of_ok hnow]; rfl

end

/-! ### Registers and payloads written out -/

theorem add_one_eq_ofNat (x : Byte) : x + 1 = BitVec.ofNat 8 (x.toNat + 1) := by
  apply BitVec.eq_of_toNat_eq
  rw [BitVec.toNat_add, BitVec.toNat_ofNat]
  rfl

/-- The payload of a whole minute. -/
theorem smPayload_zero_sec (min hour : Byte) : smPayload ⟨0, min, hour⟩ = ⟨.a, 0x00#8, bcd min.toNat⟩ := by
  have hzero : bcd (0 : Byte).toNat = 0x00#8 := by decide
  rw [smPayload, hzero]

/-- The payload of a whole hour. -/
theorem smPayload_zero_sec_zero_min (hour : Byte) : smPayload ⟨0, 0, hour⟩ = ⟨.a, 0x00#8, 0x00#8⟩ := by
  have hzero : bcd (0 : Byte).toNat = 0x00#8 := by decide
  rw [smPayload_zero_sec, hzero]

theorem smPayload_clockOf {fix : Bool} {t : HostTime} (h : hostTimeOk t = true) :
    smPayload (clockOf fix t) = ⟨.a, bcd t.s, bcd t.m⟩ := by
  obtain ⟨hsec, hmin, -⟩ := clockOf_toNat (fix := fix) h
  rw [smPayload, hsec, hmin]

theorem hPayload_clockOf {fix : Bool} {t : HostTime} (h : hostTimeOk t = true) :
    hPayload (clockOf fix t) = ⟨.b, bcd (to12 fix t.h24), 0xFF#8⟩ := by
  obtain ⟨-, -, hhour⟩ := clockOf_toNat (fix := fix) h
  rw [hPayload, hhour]; rfl

theorem State.enqueue_of_nil {s : State} (p : Payload) (hwq : s.wq = []) : s.enqueue p = { s with wq := [p] } := by
  rw [State.enqueue, hwq]; rfl

/-! ### The cases T1 to T4, RS and ST -/

/-- Settles O22: case T1. -/
theorem tickWithoutCarry : Obligations.TickWithoutCarry := by
  intro s c hphase hwq hclock hsec hmin
  have hsucc : (c.sec + 1).toNat = c.sec.toNat + 1 := toNat_succ_of_lt (by omega)
  rw [exec_tick_of_run hphase hwq hclock, tickStep_of_noCarry (by omega) (by omega), State.enqueue_of_nil _ hwq,
    smPayload, hsucc, add_one_eq_ofNat]
  rfl

/-- Settles O23: case T2. -/
theorem tickWithMinuteIncrement : Obligations.TickWithMinuteIncrement := by
  intro s c hphase hwq hclock hsec hmin
  have hsec' : (c.sec + 1).toNat = c.sec.toNat + 1 := toNat_succ_of_lt (by omega)
  have hmin' : (c.min + 1).toNat = c.min.toNat + 1 := toNat_succ_of_lt (by omega)
  rw [exec_tick_of_run hphase hwq hclock, tickStep_of_minute (by omega) (by omega), State.enqueue_of_nil _ hwq,
    smPayload_zero_sec, hmin', add_one_eq_ofNat]
  rfl

/-- Settles O24: case T3. -/
theorem tickWithHourIncrement : Obligations.TickWithHourIncrement := by
  intro s c hphase hwq hclock hsec hmin hhour
  have hsec' : (c.sec + 1).toNat = c.sec.toNat + 1 := toNat_succ_of_lt (by omega)
  have hmin' : (c.min + 1).toNat = c.min.toNat + 1 := toNat_succ_of_lt (by omega)
  have hhour' : (c.hour + 1).toNat = c.hour.toNat + 1 := toNat_succ_of_lt (by omega)
  rw [exec_tick_of_run hphase hwq hclock, tickStep_of_hour (by omega) (by omega) (by omega),
    State.enqueue_of_nil _ hwq, hPayload, smPayload_zero_sec_zero_min, hhour', add_one_eq_ofNat]
  rfl

/-- Settles O25: case T4; the host's time is queued by `resync`, and again as the two cascade calls return. -/
theorem tickWithHourWrap : Obligations.TickWithHourWrap := by
  rintro s c now hphase hwq hclock hsec hmin hhour rfl hh hm hs
  have hsec' : (c.sec + 1).toNat = c.sec.toNat + 1 := toNat_succ_of_lt (by omega)
  have hmin' : (c.min + 1).toNat = c.min.toNat + 1 := toNat_succ_of_lt (by omega)
  have hhour' : (c.hour + 1).toNat = c.hour.toNat + 1 := toNat_succ_of_lt (by omega)
  have hnow : hostTimeOk s.nextNow = true := hostTimeOk_iff.mpr ⟨hh, hm, hs⟩
  rw [exec_tick_of_run hphase hwq hclock, tickStep_of_wrap (by omega) (by omega) (by omega) hnow,
    State.enqueue_of_nil (s := s.afterNow) _ hwq, State.nextClock, smPayload_clockOf hnow, hPayload_clockOf hnow]
  rfl

/-- Settles O27: case RS. -/
theorem resyncCompletes : Obligations.ResyncCompletes := by
  rintro s now hphase hwq rfl hh hm hs
  have hnow : hostTimeOk s.nextNow = true := hostTimeOk_iff.mpr ⟨hh, hm, hs⟩
  rw [exec_resync_of_run hphase hwq, resync_of_ok hnow, State.enqueue_of_nil (s := s.afterNow) _ hwq, State.nextClock,
    smPayload_clockOf hnow, hPayload_clockOf hnow]
  rfl

theorem startDevicesOpen_of_ok (s0 : State) {s : State} (hnow : hostTimeOk s.nextNow = true) :
    startDevicesOpen s0 s = { ((((s.afterNow.enqueue (initPayload .a)).enqueue (initPayload .b)).enqueue
      (smPayload s.nextClock)).enqueue (hPayload s.nextClock)).withClock s.nextClock with phase := .run } := by
  obtain ⟨-, heq⟩ | ⟨hbad, -⟩ := startDevicesOpen_cases s0 s
  · exact heq
  · rw [hnow] at hbad
    cases hbad

/-- START with both devices open and a host time in its contract: of the state before it keeps all that `resync` and
the opens do not touch. -/
theorem startDevicesOpen_eq {s u : State} (hu : BothOpened s u) (hwq : s.wq = []) (hnow : hostTimeOk u.nextNow = true) :
    startDevicesOpen s u = { s with
      clock := some (clockOf s.cfg.midnightFix u.nextNow), phase := .run
      wq := [initPayload .a, initPayload .b, ⟨.a, bcd u.nextNow.s, bcd u.nextNow.m⟩,
        ⟨.b, bcd (to12 s.cfg.midnightFix u.nextNow.h24), 0xFF#8⟩]
      handleA := .opened, handleB := .opened, log := u.afterNow.log, openCalls := u.openCalls
      answers := u.afterNow.answers, draws := u.afterNow.draws } := by
  rw [startDevicesOpen_of_ok s hnow, State.enqueue_of_nil (s := u.afterNow) _ (hu.wq.trans hwq), State.nextClock,
    smPayload_clockOf hnow, hPayload_clockOf hnow, hu.frame.cfg]
  exact State.ext (clock := rfl) (phase := rfl) (fault := hu.fault) (fcode := hu.fcode) (wq := rfl)
    (handleA := hu.handleA) (handleB := hu.handleB) (latchA := hu.frame.latchA) (latchB := hu.frame.latchB) (log := rfl)
    (cfg := hu.frame.cfg) (outs := hu.outs) (openCalls := rfl) (sched := hu.frame.sched) (answers := rfl) (draws := rfl)

/-- Settles O21: case ST, with what the two opens have left in LOG and in the record of the calls. -/
theorem startCompletes : Obligations.StartCompletes := by
  rintro s u now hphase hwq haddr hA hB hu rfl hh hm hs
  obtain rfl : s.bothOpened = u := hu
  have hcalls : s.bothOpened.openCalls = s.openCalls ++ [(s.cfg.bus, s.cfg.addrA), (s.cfg.bus, s.cfg.addrB)] := by
    simp [State.bothOpened, targetOf, addrOf]
  rw [exec_start_of_nil (State.phase_ne_fatal_of_off hphase) hwq, startStep_of_open_ok hphase haddr hA hB,
    startDevicesOpen_eq (bothOpened_of_ok hA hB) hwq (hostTimeOk_iff.mpr ⟨hh, hm, hs⟩),
    State.bothOpened_afterNow_log hA hB, hcalls]
  rfl

/-! ### What the three commands leave unchanged (R17) -/

/-- START, TICK and RESYNC raise a fault or complete. -/
theorem Ran.raised_or_completes {i : Instr} {s t : State} (h : Ran i s t) (hi : i = .start ∨ i = .tick ∨ i = .resync) :
    (∃ code u, t = s.raiseAt code u) ∨ ∃ c q, Completes i s t c q := by
  cases h with
  | raised _ _ _ => exact .inl ⟨_, _, rfl⟩
  | unchanged hnop => rw [hnop] at hi; simp at hi
  | output o hport => obtain rfl | rfl | rfl := hi <;> exact absurd rfl hport
  | completed hdone => exact .inr ⟨_, _, hdone⟩

/-- Settles O43: what no instruction touches is in the frame; of the rest a fault keeps all but STATUS, and a completed
command started with nothing queued. -/
theorem clockCommandsFrame : Obligations.ClockCommandsFrame := by
  intro i s t hexec hi
  obtain ⟨-, hran⟩ := exec_next hexec
  have hframe := hran.frame
  have hhandle (hne : i ≠ .start) (d : Device) : t.handle d = s.handle d :=
    (hran.handle d).resolve_right fun h => hne h.1
  have hrest : t.outs = s.outs ∧ s.wq <+: t.wq ∧
      (t.phase = .fatal → t.clock = s.clock ∧ t.wq = s.wq ∧ t.handleA = s.handleA ∧ t.handleB = s.handleB) ∧
      (t.phase ≠ .fatal → t.fault = s.fault ∧ t.fcode = s.fcode) := by
    obtain ⟨code, u, rfl⟩ | ⟨c, q, hdone⟩ := hran.raised_or_completes hi
    · exact ⟨rfl, List.prefix_rfl, fun _ => ⟨rfl, rfl, rfl, rfl⟩, fun h => absurd rfl h⟩
    · exact ⟨hdone.outs, hdone.idle ▸ List.nil_prefix, fun h => absurd h (State.phase_ne_fatal_of_run hdone.phase),
        fun _ => ⟨hdone.fault, hdone.fcode⟩⟩
  obtain ⟨houts, hwq, hfatal, hother⟩ := hrest
  exact ⟨hframe.latchA, hframe.latchB, hframe.cfg, houts, hframe.sched,
    fun hne => ⟨hhandle hne .a, hhandle hne .b, hframe.calls hne⟩, hwq, hframe.log_prefix, hframe.openCalls, hfatal,
    hother⟩

/-! ### What is queued -/

/-- Settles O46: the five cases of the body of TICK, of which the fault is excluded by the phase. -/
theorem tickEmissionCounts : Obligations.TickEmissionCounts := by
  intro s t c hphase hwq hclock hrange hexec hrun
  rw [exec_tick_of_run hphase hwq hclock] at hexec
  obtain ⟨hs, hm, hh, -⟩ := hrange
  have hsec : 59 < (c.sec + 1).toNat ↔ c.sec = 59#8 := by bv_omega
  have hmin : 59 < (c.min + 1).toNat ↔ c.min = 59#8 := by bv_omega
  have hhour : 12 < (c.hour + 1).toNat ↔ c.hour = 12#8 := by bv_omega
  obtain ⟨h1, -, rfl⟩ | ⟨h1, h2, rfl⟩ | ⟨h1, h2, h3, rfl⟩ | ⟨h1, h2, h3, -, rfl⟩ | ⟨-, -, -, -, rfl⟩ :=
    tickStep_next hexec
  · have hne : c.sec ≠ 59#8 := mt hsec.mpr (Nat.not_lt.mpr h1)
    simp [hwq, hne]
  · have hne : c.min ≠ 59#8 := mt hmin.mpr (Nat.not_lt.mpr h2)
    simp [hwq, hne]
  · have hne : c.hour ≠ 12#8 := mt hhour.mpr (Nat.not_lt.mpr h3)
    simp [hwq, hsec.mp h1, hmin.mp h2, hne]
  · simp [hwq, hsec.mp h1, hmin.mp h2, hhour.mp h3]
  · cases hrun

/-- Of what a command queues, each payload and the last for each device. -/
theorem Emission.shows {i : Instr} {c : Clock} {q : List Payload} (h : Emission i c q) :
    (∀ p ∈ q, p = smPayload c ∨ p = hPayload c ∨ (i = .start ∧ p = initPayload p.dev)) ∧
    lastFor .a q = some (smPayload c) ∧
    (lastFor .b q = none ∨ lastFor .b q = some (hPayload c)) ∧
    (i ≠ .tick → lastFor .b q = some (hPayload c)) := by
  cases h <;> simp [lastFor]

/-- Settles O47: only a completed command ends in phase RUN with something queued. -/
theorem emissionsShowTheEndState : Obligations.EmissionsShowTheEndState := by
  intro i s t hexec hi hwq hphase
  obtain ⟨code, u, rfl⟩ | ⟨c, q, hdone⟩ := (exec_next hexec).2.raised_or_completes hi
  · cases hphase
  · rw [hdone.wq]
    exact ⟨c, hdone.clock, hdone.emission.shows⟩

end Sys2Proof.Machine
end

section
/-! Runs of several steps: the writer agent drains the queue (R55, R105), and sixty TICKs make a minute (R107). -/

namespace Sys2Proof.Machine

/-! ### Draining the queue -/

/-- The state after the writer agent has sent the entries `q` in order, the rest of them queued meanwhile. -/
def State.drained (s : State) : List Payload → State
  | [] => s
  | p :: q => (({ s with wq := q } : State).sendPayload p).drained q

/-- The host presents nothing: its schedule is empty, or it waits (R73). -/
def State.presentsNothing (s : State) : Prop := s.sched = [] ∨ ∃ r, s.sched = .wait :: r

theorem step_of_presentsNothing {s : State} (h : s.presentsNothing) (hphase : s.phase ≠ .fatal) (hwq : s.wq ≠ []) :
    step s = writerTurn s := by
  obtain hsched | ⟨r, hsched⟩ := h
  · exact step_of_nil hsched
  · exact step_of_wait_of_busy hsched hphase hwq

/-- While nothing is presented each step sends the head of the queue, so as many steps as it has entries send it all. -/
theorem run_drained (q : List Payload) : ∀ {s : State}, s.wq = q → s.phase ≠ .fatal → s.presentsNothing →
    (∀ d, s.handle d = .opened) → Sys2Proof.core.run q.length s = .next (s.drained q) := by
  induction q with
  | nil => intros; rfl
  | cons p q ih =>
    intro s hwq hphase hidle hopen
    have hstep : step s = .next (({ s with wq := q } : State).sendPayload p) := by
      rw [step_of_presentsNothing hidle hphase (by simp [hwq]), writerTurn_of_cons hphase hwq (hopen p.dev)]
    have hblock := writerLeavesBlock_sendPayload hwq
    rw [List.length_cons, run_succ_of_next _ hstep]
    refine ih (State.busWrite_wq ..) (by rwa [hblock.phase]) ?_ fun d => (hblock.handle d).trans (hopen d)
    rwa [State.presentsNothing, State.sendPayload, State.busWrite_sched]

section
variable (q : List Payload) (s : State)

/-! What a drain leaves, by induction on the entries sent. -/

theorem drained_clock : (s.drained q).clock = s.clock := by
  induction q generalizing s with
  | nil => rfl
  | cons p q ih => exact (ih _).trans (State.busWrite_clock ..)

theorem drained_phase : (s.drained q).phase = s.phase := by
  induction q generalizing s with
  | nil => rfl
  | cons p q ih => exact (ih _).trans (State.busWrite_phase ..)

theorem drained_sched : (s.drained q).sched = s.sched := by
  induction q generalizing s with
  | nil => rfl
  | cons p q ih => exact (ih _).trans (State.busWrite_sched ..)

theorem drained_handle (d : Device) : (s.drained q).handle d = s.handle d := by
  induction q generalizing s with
  | nil => rfl
  | cons p q ih =>
    refine (ih _).trans ?_
    cases d with
    | a => exact State.busWrite_handleA ..
    | b => exact State.busWrite_handleB ..

variable {s} in
theorem drained_wq (hwq : s.wq = q) : (s.drained q).wq = [] := by
  induction q generalizing s with
  | nil => exact hwq
  | cons p q ih => exact ih (State.busWrite_wq ..)

/-- The writes reach the bus in queue order (R55). -/
theorem drained_wireWrites : wireWrites (s.drained q).log = wireWrites s.log ++ q.map Payload.wire := by
  induction q generalizing s with
  | nil => exact (List.append_nil _).symm
  | cons p q ih =>
    rw [State.drained, ih, State.sendPayload_log, wireWrites_append, List.append_assoc]
    rfl

end

/-- Settles O57: with an empty schedule the queue is drained, and a drain has the effects stated. -/
theorem writerDrainsQueueInOrder : Obligations.WriterDrainsQueueInOrder := by
  intro s hinv hphase hsched
  have hopen (d : Device) : s.handle d = .opened := hinv.handle_opened_of_run hphase d
  exact ⟨s.drained s.wq, run_drained s.wq rfl (State.phase_ne_fatal_of_run hphase) (.inl hsched) hopen,
    drained_wq s.wq rfl, drained_clock .., (drained_phase ..).trans hphase, (drained_sched ..).trans hsched,
    drained_wireWrites ..⟩

/-! ### The latches after a drain -/

/-- What the latch of a device holds when the writes of `q` have all returned OK and it held `l` before (R52). -/
def latchAfterQueue (d : Device) (q : List Payload) (l : Latch) : Latch :=
  match lastFor d q with
  | some p => .holds (inv p.b0) (inv p.b1)
  | none   => l

theorem lastFor_cons_self (p : Payload) (q : List Payload) :
    lastFor p.dev (p :: q) = some ((lastFor p.dev q).getD p) := by
  simp [lastFor, List.getLast?_cons]

theorem lastFor_cons_of_ne {d : Device} {p : Payload} (q : List Payload) (h : d ≠ p.dev) :
    lastFor d (p :: q) = lastFor d q := by
  simp [lastFor, Ne.symm h]

/-- Sending one entry first and then the rest. -/
theorem latchAfterQueue_cons (d : Device) (p : Payload) (q : List Payload) (l : Latch) :
    latchAfterQueue d (p :: q) l =
      latchAfterQueue d q (if p.dev = d then .holds (inv p.b0) (inv p.b1) else l) := by
  unfold latchAfterQueue
  split_ifs with h
  · subst h
    rw [lastFor_cons_self]
    cases lastFor p.dev q <;> rfl
  · rw [lastFor_cons_of_ne q (Ne.symm h)]

/-- A sheet that begins with an OK for every entry answers OK to each write of the drain. -/
theorem drained_latch (d : Device) (q : List Payload) (s : State)
    (hok : List.replicate q.length .ok <+: s.answers.writes) :
    (s.drained q).latch d = latchAfterQueue d q (s.latch d) := by
  induction q generalizing s with
  | nil => rfl
  | cons p q ih =>
    obtain ⟨rest, hwrites⟩ := hok
    rw [List.length_cons, List.replicate_succ, List.cons_append] at hwrites
    have hanswer : ({ s with wq := q } : State).nextWrite = .ok := by rw [State.nextWrite, ← hwrites]
    have hrest : (({ s with wq := q } : State).sendPayload p).answers.writes =
        List.replicate q.length WriteResult.ok ++ rest := by
      rw [State.sendPayload, State.busWrite_answers, ← hwrites]; rfl
    rw [State.drained, ih _ ⟨rest, hrest.symm⟩, latchAfterQueue_cons, State.sendPayload, State.latch_busWrite, hanswer]
    cases d <;> rfl

/-- Settles O58: the run is the drain of O57, and each of its writes is answered OK. -/
theorem drainedLatchesShowLastPayloads : Obligations.DrainedLatchesShowLastPayloads := by
  intro s t hinv hphase hsched hok hrun d
  have hopen (d : Device) : s.handle d = .opened := hinv.handle_opened_of_run hphase d
  rw [run_drained s.wq rfl (State.phase_ne_fatal_of_run hphase) (.inl hsched) hopen] at hrun
  cases hrun
  exact drained_latch d s.wq s hok

/-! ### Runs of some length -/

/-- Some number of steps leads from `s` to `t`. -/
def Reaches (s t : State) : Prop := ∃ k, Sys2Proof.core.run k s = .next t

theorem Reaches.refl (s : State) : Reaches s s := ⟨0, rfl⟩

theorem Reaches.head {s t u : State} (hstep : step s = .next t) (h : Reaches t u) : Reaches s u := by
  obtain ⟨k, hrun⟩ := h
  exact ⟨k + 1, (run_succ_of_next k hstep).trans hrun⟩

/-- A run of one step or more that ends in a next state begins with a step that has one. -/
theorem exists_step_of_run_succ {k : Nat} {s u : State} (hrun : Sys2Proof.core.run (k + 1) s = .next u) :
    ∃ t, step s = .next t ∧ Sys2Proof.core.run k t = .next u := by
  cases hstep : Sys2Proof.core.step s <;> simp only [Host.Core.run, hstep, reduceCtorEq] at hrun
  exact ⟨_, hstep, hrun⟩

theorem Reaches.trans {s t u : State} (hst : Reaches s t) (htu : Reaches t u) : Reaches s u := by
  obtain ⟨k, hrun⟩ := hst
  induction k generalizing s with
  | zero =>
    cases hrun
    exact htu
  | succ k ih =>
    obtain ⟨v, hstep, hrun⟩ := exists_step_of_run_succ hrun
    exact .head hstep (ih hrun)

/-! ### One TICK and its WAIT -/

/-- In phase RUN with both devices open, nothing queued, the registers holding `c`, and `r` to be presented. -/
structure IdleAt (s : State) (c : Clock) (r : List Stimulus) : Prop where
  phase  : s.phase = .run
  clock  : s.clock = some c
  wq     : s.wq = []
  handle : ∀ d, s.handle d = .opened
  sched  : s.sched = r

/-- TICK advances the registers `c` to `c'` without a fault. -/
def TicksTo (c c' : Clock) : Prop :=
  ∀ s : State, s.phase = .run → s.wq = [] → s.clock = some c →
    ∃ t, exec .tick s = .next t ∧ t.clock = some c' ∧ t.phase = .run

/-- A WAIT drains the queue and ends (R73). -/
theorem reaches_of_wait {s : State} {c : Clock} {r : List Stimulus} (hphase : s.phase = .run)
    (hclock : s.clock = some c) (hopen : ∀ d, s.handle d = .opened) (hsched : s.sched = .wait :: r) :
    ∃ t, Reaches s t ∧ IdleAt t c r := by
  have hdrain : Reaches s (s.drained s.wq) :=
    ⟨_, run_drained s.wq rfl (State.phase_ne_fatal_of_run hphase) (.inr ⟨r, hsched⟩) hopen⟩
  have hwq : (s.drained s.wq).wq = [] := drained_wq s.wq rfl
  have hend := step_of_wait_of_done ((drained_sched s.wq s).trans hsched) (.inr hwq)
  exact ⟨_, hdrain.trans (.head hend (.refl _)), (drained_phase ..).trans hphase, (drained_clock ..).trans hclock, hwq,
    fun d => (drained_handle s.wq s d).trans (hopen d), rfl⟩

/-- A line TICK with its WAIT: the answers are settled, TICK runs, the writer agent drains what it queued. -/
theorem reaches_of_tick {s : State} {c c' : Clock} {a : Answers} {r : List Stimulus} (htick : TicksTo c c')
    (hs : IdleAt s c (.answers a :: .present (.cmd 0x02#8) :: .wait :: r)) :
    ∃ t, Reaches s t ∧ IdleAt t c' r := by
  obtain ⟨u, hexec, hclock, hphase⟩ := htick { s with sched := .wait :: r, answers := a } hs.phase hs.wq hs.clock
  have hran := (exec_next hexec).2
  have hopen (d : Device) : u.handle d = .opened :=
    ((hran.handle d).resolve_right fun h => nomatch h.1).trans (hs.handle d)
  have hpresent : step { s with sched := .present (.cmd 0x02#8) :: .wait :: r, answers := a } = .next u := by
    rw [step_of_present rfl]; exact hexec
  obtain ⟨t, hreach, ht⟩ := reaches_of_wait hphase hclock hopen hran.frame.sched
  exact ⟨t, .head (step_of_answers hs.sched) (.head hpresent hreach), ht⟩

/-! ### Sixty TICKs -/

/-- The registers `j` TICKs after `c`, up to sixty of them and with no wrap of the hour. -/
def Clock.afterTicks (c : Clock) (j : Nat) : Clock :=
  if c.sec.toNat + j ≤ 59 then ⟨BitVec.ofNat 8 (c.sec.toNat + j), c.min, c.hour⟩
  else ⟨BitVec.ofNat 8 (c.sec.toNat + j - 60), BitVec.ofNat 8 ((c.min.toNat + 1) % 60),
    if c.min = 59#8 then c.hour + 1 else c.hour⟩

theorem toNat_ofNat_of_lt {n : Nat} (h : n < 256) : (BitVec.ofNat 8 n).toNat = n :=
  BitVec.toNat_ofNat n 8 ▸ Nat.mod_eq_of_lt h

/-- Case T1, the seconds given as a number. -/
theorem ticksTo_second {n : Nat} {min hour : Byte} (hn : n ≤ 58) (hmin : min.toNat ≤ 59) :
    TicksTo ⟨BitVec.ofNat 8 n, min, hour⟩ ⟨BitVec.ofNat 8 (n + 1), min, hour⟩ := by
  intro s hphase hwq hclock
  have hsec : (BitVec.ofNat 8 n).toNat = n := toNat_ofNat_of_lt (by omega)
  exact ⟨_, tickWithoutCarry s _ hphase hwq hclock (hsec.trans_le hn) hmin, by simp only [hsec], hphase⟩

/-- Cases T2 and T3: the minute carries into the hour at 59. -/
theorem ticksTo_minute {fix : Bool} {c : Clock} (hrange : c.InRange fix) (hwrap : ¬ (c.min = 59#8 ∧ c.hour = 12#8)) :
    TicksTo ⟨BitVec.ofNat 8 59, c.min, c.hour⟩
      ⟨0, BitVec.ofNat 8 ((c.min.toNat + 1) % 60), if c.min = 59#8 then c.hour + 1 else c.hour⟩ := by
  intro s hphase hwq hclock
  obtain ⟨-, hmin, hhour, -⟩ := hrange
  by_cases h59 : c.min = 59#8
  · have hmin59 : c.min.toNat = 59 := congrArg BitVec.toNat h59
    have hhour11 : c.hour.toNat ≤ 11 := by
      have hne : c.hour ≠ 12#8 := fun h => hwrap ⟨h59, h⟩
      bv_omega
    refine ⟨_, tickWithHourIncrement s _ hphase hwq hclock rfl hmin59 hhour11, ?_, hphase⟩
    simp only [if_pos h59, hmin59, add_one_eq_ofNat]
    rfl
  · have hmin58 : c.min.toNat ≤ 58 := by bv_omega
    refine ⟨_, tickWithMinuteIncrement s _ hphase hwq hclock rfl hmin58, ?_, hphase⟩
    simp only [if_neg h59, Nat.mod_eq_of_lt (by omega : c.min.toNat + 1 < 60)]
    rfl

/-- The tick that carries into the minute is the one at second 59; those before and after it are case T1. -/
theorem ticksTo_afterTicks {fix : Bool} {c : Clock} {j : Nat} (hrange : c.InRange fix)
    (hwrap : ¬ (c.min = 59#8 ∧ c.hour = 12#8)) (hj : j < 60) : TicksTo (c.afterTicks j) (c.afterTicks (j + 1)) := by
  have ⟨hsec, hmin, _⟩ := hrange
  have hbefore (i : Nat) (h : c.sec.toNat + i ≤ 59) :
      c.afterTicks i = ⟨BitVec.ofNat 8 (c.sec.toNat + i), c.min, c.hour⟩ := if_pos h
  have hafter (i : Nat) (h : 59 < c.sec.toNat + i) :
      c.afterTicks i = ⟨BitVec.ofNat 8 (c.sec.toNat + i - 60), BitVec.ofNat 8 ((c.min.toNat + 1) % 60),
        if c.min = 59#8 then c.hour + 1 else c.hour⟩ := if_neg (Nat.not_le.mpr h)
  obtain hlt | heq | hgt := Nat.lt_trichotomy (c.sec.toNat + j) 59
  · rw [hbefore j hlt.le, hbefore (j + 1) hlt]
    exact ticksTo_second (by omega) hmin
  · rw [hbefore j heq.le, hafter (j + 1) (by omega), heq, show c.sec.toNat + (j + 1) - 60 = 0 by omega]
    exact ticksTo_minute hrange hwrap
  · rw [hafter j hgt, hafter (j + 1) (by omega), show c.sec.toNat + (j + 1) - 60 = c.sec.toNat + j - 60 + 1 by omega]
    exact ticksTo_second (by omega) (by rw [toNat_ofNat_of_lt] <;> omega)

/-- What is left of the sixty lines after `j` of them. -/
theorem reaches_of_presentTicks {fix : Bool} {c : Clock} (hrange : c.InRange fix)
    (hwrap : ¬ (c.min = 59#8 ∧ c.hour = 12#8)) (k : Nat) :
    ∀ {j : Nat} {s : State}, j + k = 60 → IdleAt s (c.afterTicks j) (presentTicks k) →
      ∃ t, Reaches s t ∧ IdleAt t (c.afterTicks 60) [] := by
  induction k with
  | zero =>
    rintro j s rfl hs
    exact ⟨s, .refl s, hs⟩
  | succ k ih =>
    intro j s hjk hs
    obtain ⟨t, hst, ht⟩ := reaches_of_tick (ticksTo_afterTicks hrange hwrap (by omega)) hs
    obtain ⟨u, htu, hu⟩ := ih (by omega) ht
    exact ⟨u, hst.trans htu, hu⟩

/-- Settles O59: sixty lines from the registers `c` lead to those sixty TICKs after `c`. -/
theorem sixtyTicksAdvanceTheMinute : Obligations.SixtyTicksAdvanceTheMinute := by
  intro s c hinv hphase hclock hwq hsched hwrap
  obtain ⟨c', hclock', hrange⟩ := hinv.clock_of_run hphase
  obtain rfl : c' = c := Option.some.inj (hclock'.symm.trans hclock)
  have hzero : c'.afterTicks 0 = c' := by
    rw [Clock.afterTicks, if_pos (by simpa using hrange.1), Nat.add_zero, BitVec.ofNat_toNat, BitVec.setWidth_eq]
  have hsixty : c'.afterTicks 60 = ⟨c'.sec, BitVec.ofNat 8 ((c'.min.toNat + 1) % 60),
      if c'.min = 59#8 then c'.hour + 1 else c'.hour⟩ := by
    rw [Clock.afterTicks, if_neg (by omega), Nat.add_sub_cancel, BitVec.ofNat_toNat, BitVec.setWidth_eq]
  have hidle : IdleAt s (c'.afterTicks 0) (presentTicks 60) :=
    ⟨hphase, hclock.trans (congrArg some hzero.symm), hwq, hinv.handle_opened_of_run hphase, hsched⟩
  obtain ⟨t, ⟨k, hrun⟩, ht⟩ := reaches_of_presentTicks hrange hwrap 60 rfl hidle
  exact ⟨k, t, hrun, ht.sched, ht.wq, ht.phase, hsixty ▸ ht.clock⟩

end Sys2Proof.Machine
end

section
/-! Program text (R73, R74): the equations of `assemble`, and where NOWAIT may stand. -/

namespace Sys2Proof.Machine

section
variable {ls : List Line} {l : List Stimulus}

/-! ### One equation for each kind of line -/

theorem assemble_command_nowait (w : Byte) (a : LineAnswers) (h : assemble ls = .ok l) :
    assemble (.command w a :: .nowait :: ls) = .ok (presentCommand w a ++ l) := by
  rw [assemble, h]

theorem assemble_command (w : Byte) (a : LineAnswers) (hnext : ls.head? ≠ some .nowait) (h : assemble ls = .ok l) :
    assemble (.command w a :: ls) = .ok (presentCommand w a ++ .wait :: l) := by
  rw [assemble, h]
  rintro rest rfl
  exact hnext rfl

theorem assemble_ticks (k : Nat) (h : assemble ls = .ok l) :
    assemble (.ticks (k + 1) :: ls) = .ok (presentTicks (k + 1) ++ l) := by
  rw [assemble, h]

theorem assemble_encode (n : Byte) (h : assemble ls = .ok l) :
    assemble (.encode n :: ls) = .ok (.present (.codec n) :: l) := by
  rw [assemble, h]

theorem assemble_invert (x y : Byte) (h : assemble ls = .ok l) :
    assemble (.invert x y :: ls) = .ok (.present (.inv x y) :: l) := by
  rw [assemble, h]

theorem assemble_wait (h : assemble ls = .ok l) : assemble (.wait :: ls) = .ok (.wait :: l) := by
  rw [assemble, h]

theorem assemble_nowait : assemble (.nowait :: ls) = .error .strayNowait := by
  rw [assemble]

theorem assemble_ticks_zero : assemble (.ticks 0 :: ls) = .error .noTicks := by
  rw [assemble]

end

/-! ### A stray NOWAIT -/

/-- A text that stands for nothing. -/
def Rejected (ls : List Line) : Prop := ∃ e, assemble ls = .error e

theorem rejected_nowait (ls : List Line) : Rejected (.nowait :: ls) := ⟨_, assemble_nowait⟩

/-- A text is rejected when it is rejected without its first line, and, where that is a command line with its NOWAIT,
without both. -/
theorem rejected_cons_cons {y z : Line} {ls : List Line} (htail : Rejected (z :: ls))
    (hnowait : z = .nowait → Rejected ls) : Rejected (y :: z :: ls) := by
  obtain ⟨e, he⟩ := htail
  cases y with
  | command w a =>
    by_cases hz : z = .nowait
    · obtain ⟨e', he'⟩ := hnowait hz
      exact ⟨e', by rw [hz, assemble, he']⟩
    · refine ⟨e, ?_⟩
      rw [assemble, he]
      rintro rest hcons
      exact hz (List.cons.inj hcons).1
  | encode n | invert b0 b1 | wait => exact ⟨e, by rw [assemble, he]⟩
  | ticks k =>
    cases k with
    | zero => exact ⟨_, assemble_ticks_zero⟩
    | succ k => exact ⟨e, by rw [assemble, he]⟩
  | nowait => exact rejected_nowait _

/-- Behind a line that is neither a command line nor an error of its own, NOWAIT is the error of the text. -/
theorem assemble_stray {x : Line} (ls : List Line) (hcommand : ∀ w a, x ≠ .command w a) (hticks : x ≠ .ticks 0) :
    assemble (x :: .nowait :: ls) = .error .strayNowait := by
  have hnowait : assemble (.nowait :: ls) = .error .strayNowait := assemble_nowait
  cases x with
  | command w a => exact absurd rfl (hcommand w a)
  | encode n | invert b0 b1 | wait => rw [assemble, hnowait]
  | ticks k =>
    cases k with
    | zero => exact absurd rfl hticks
    | succ k => rw [assemble, hnowait]
  | nowait => exact assemble_nowait

/-- NOWAIT behind a line that is no command line is found wherever it stands. -/
theorem rejected_of_stray {x : Line} (ls : List Line) (hcommand : ∀ w a, x ≠ .command w a) :
    ∀ pre, Rejected (pre ++ x :: .nowait :: ls)
  | [] => by
    by_cases hticks : x = .ticks 0
    · exact ⟨_, hticks ▸ assemble_ticks_zero⟩
    · exact ⟨_, assemble_stray ls hcommand hticks⟩
  | [_] => rejected_cons_cons (rejected_of_stray ls hcommand []) fun _ => rejected_nowait ls
  | _ :: z :: pre =>
    rejected_cons_cons (rejected_of_stray ls hcommand (z :: pre)) fun _ => rejected_of_stray ls hcommand pre

/-- Settles O60: the equations of `assemble`, and the places of a stray NOWAIT. -/
theorem assemblerPlacesWaits : Obligations.AssemblerPlacesWaits :=
  ⟨by rw [assemble],
    fun _ _ h => ⟨fun w a => assemble_command_nowait w a h, fun hnext w a => assemble_command w a hnext h,
      fun k => assemble_ticks k h, fun n => assemble_encode n h, fun x y => assemble_invert x y h, assemble_wait h⟩,
    ⟨rfl, fun _ => rfl⟩, fun _ => assemble_nowait, fun _ ls => assemble_stray ls,
    fun pre _ ls hcommand => rejected_of_stray ls hcommand pre, fun _ => assemble_ticks_zero⟩

end Sys2Proof.Machine
end

section
/-! The parameters that no step reads, and P_BUS (R10, R44, R47, R154, R162): a step of a state with other values of
them is the step of the state, with the other values in its configuration and the other bus in the calls of `open`. -/

namespace Sys2Proof.Machine

/-- Other values of P_BUS, P_TRACE, P_PINMAP and the exit statuses. -/
structure Unread where
  bus        : Nat
  trace      : TraceLevel
  pinMap     : PinMap
  exitConfig : Int
  exitDevice : Int

/-- The configuration with these values. -/
def Unread.apply (v : Unread) (p : Params) : Params :=
  { p with bus := v.bus, trace := v.trace, pinMap := v.pinMap, exitConfig := v.exitConfig, exitDevice := v.exitDevice }

/-- The state with these values in its configuration, and with another record of the calls of `open`. -/
def State.vary (s : State) (v : Unread) (calls : List (Nat × Addr7)) : State :=
  { s with cfg := v.apply s.cfg, openCalls := calls }

/-- The same, of the state a step answers. -/
def varyResult (v : Unread) (calls : List (Nat × Addr7)) : Result → Result
  | .next t    => .next (t.vary v calls)
  | .fault f   => .fault f
  | .refused r => .refused r

/-- The same, of the state a procedure ends in. -/
def Flow.vary (v : Unread) (calls : List (Nat × Addr7)) : Flow → Flow
  | .done c s      => .done c (s.vary v calls)
  | .raised code s => .raised code (s.vary v calls)

section
variable (v : Unread) (calls : List (Nat × Addr7)) (s : State)

/-! ### The procedures and commands that call no `open` -/

theorem resync_vary : resync (s.vary v calls) = (resync s).vary v calls := by
  cases hnow : hostTimeOk s.nextNow with
  | true =>
    rw [resync_of_ok hnow, resync_of_ok (s := s.vary v calls) hnow]
    rfl
  | false =>
    rw [resync_of_not_ok hnow, resync_of_not_ok (s := s.vary v calls) hnow]
    rfl

theorem thenEmit_vary (f : Flow) (p : Clock → Payload) :
    (f.vary v calls).thenEmit (fun c s => s.enqueue (p c)) = (f.thenEmit fun c s => s.enqueue (p c)).vary v calls := by
  cases f <;> rfl

theorem incHour_vary (c : Clock) : incHour c (s.vary v calls) = (incHour c s).vary v calls := by
  by_cases h : 12 < (c.hour + 1).toNat
  · rw [incHour_of_gt _ h, incHour_of_gt _ h, resync_vary]
    exact thenEmit_vary v calls _ hPayload
  · rw [incHour_of_le _ (Nat.not_lt.mp h), incHour_of_le _ (Nat.not_lt.mp h)]
    rfl

theorem incMinute_vary (c : Clock) : incMinute c (s.vary v calls) = (incMinute c s).vary v calls := by
  by_cases h : 59 < (c.min + 1).toNat
  · rw [incMinute_of_gt _ h, incMinute_of_gt _ h, incHour_vary]
    exact thenEmit_vary v calls _ smPayload
  · rw [incMinute_of_le _ (Nat.not_lt.mp h), incMinute_of_le _ (Nat.not_lt.mp h)]
    rfl

theorem commit_vary (f : Flow) : (f.vary v calls).commit (s.vary v calls) = (f.commit s).vary v calls := by
  cases f <;> rfl

theorem tickStep_vary (c : Clock) : tickStep c (s.vary v calls) = varyResult v calls (tickStep c s) := by
  by_cases hsec : 59 < (c.sec + 1).toNat
  · rw [tickStep_of_carry hsec, tickStep_of_carry hsec, incMinute_vary, commit_vary]
    rfl
  · by_cases hmin : bcdLimit < c.min.toNat
    · simp only [tickStep, if_neg hsec, if_pos hmin, varyResult]
    · simp only [tickStep, if_neg hsec, if_neg hmin, varyResult]
      rfl

variable {v calls s}

/-- Two outcomes given by one equation, of a state and of the state with the other values. -/
theorem eq_varyResult {o o' x : Result} (h : o = x) (h' : o' = varyResult v calls x) : o' = varyResult v calls o := by
  rw [h', h]

theorem exec_tick_vary (hphase : s.phase ≠ .fatal) :
    exec .tick (s.vary v calls) = varyResult v calls (exec .tick s) := by
  by_cases hwq : s.wq = []
  · cases hp : s.phase with
    | off => exact eq_varyResult (exec_tick_of_off hp hwq) (exec_tick_of_off (s := s.vary v calls) hp hwq)
    | run =>
      cases hclock : s.clock with
      | none =>
        exact eq_varyResult (exec_tick_of_noValue hp hwq hclock)
          (exec_tick_of_noValue (s := s.vary v calls) hp hwq hclock)
      | some c =>
        rw [exec_tick_of_run hp hwq hclock, exec_tick_of_run (s := s.vary v calls) hp hwq hclock, tickStep_vary]
    | fatal => exact absurd hp hphase
  · have hbusy : s.busy = true := State.busy_eq_true.mpr hwq
    exact eq_varyResult (exec_tick_of_busy hphase hbusy) (exec_tick_of_busy (s := s.vary v calls) hphase hbusy)

theorem exec_resync_vary (hphase : s.phase ≠ .fatal) :
    exec .resync (s.vary v calls) = varyResult v calls (exec .resync s) := by
  by_cases hwq : s.wq = []
  · cases hp : s.phase with
    | off => exact eq_varyResult (exec_resync_of_off hp hwq) (exec_resync_of_off (s := s.vary v calls) hp hwq)
    | run =>
      rw [exec_resync_of_run hp hwq, exec_resync_of_run (s := s.vary v calls) hp hwq, resync_vary, commit_vary]
      rfl
    | fatal => exact absurd hp hphase
  · have hbusy : s.busy = true := State.busy_eq_true.mpr hwq
    exact eq_varyResult (exec_resync_of_busy hphase hbusy) (exec_resync_of_busy (s := s.vary v calls) hphase hbusy)

theorem encodeStep_vary (n : Nat) : encodeStep n (s.vary v calls) = (encodeStep n s).vary v calls := by
  by_cases hn : n ≤ 99
  · rw [encodeStep_of_le hn, encodeStep_of_le hn]
    rfl
  · have hlt : 99 < n := Nat.lt_of_not_le hn
    cases hpolicy : s.cfg.bcdOor with
    | fault =>
      rw [encodeStep_of_fault hlt hpolicy, encodeStep_of_fault (s := s.vary v calls) hlt hpolicy]
      rfl
    | mask =>
      rw [encodeStep_of_mask hlt hpolicy, encodeStep_of_mask (s := s.vary v calls) hlt hpolicy]
      rfl

/-- An instruction other than START reads none of the values. -/
theorem exec_vary {i : Instr} (hi : i ≠ .start) : exec i (s.vary v calls) = varyResult v calls (exec i s) := by
  by_cases hphase : s.phase = .fatal
  · exact eq_varyResult (exec_of_fatal i hphase) (exec_of_fatal (s := s.vary v calls) i hphase)
  · cases i with
    | start => exact absurd rfl hi
    | tick => exact exec_tick_vary hphase
    | resync => exact exec_resync_vary hphase
    | encode n =>
      rw [exec_encode n hphase, exec_encode (s := s.vary v calls) n hphase, encodeStep_vary]
      rfl
    | nop | invert in0 in1 | illegal rsv op =>
      exact eq_varyResult (State.ifNotFatal_of_ne hphase) (State.ifNotFatal_of_ne (s := s.vary v calls) hphase)

theorem handle_vary (d : Device) : (s.vary v calls).handle d = s.handle d := by
  cases d <;> rfl

theorem sendPayload_vary (p : Payload) : (s.vary v calls).sendPayload p = (s.sendPayload p).vary v calls := by
  obtain ⟨d, b0, b1⟩ := p
  cases d <;> rfl

/-- The writer agent reads the addresses alone of the configuration. -/
theorem writerTurn_vary : writerTurn (s.vary v calls) = varyResult v calls (writerTurn s) := by
  by_cases hphase : s.phase = .fatal
  · exact eq_varyResult (writerTurn_of_fatal hphase) (writerTurn_of_fatal (s := s.vary v calls) hphase)
  · cases hwq : s.wq with
    | nil => exact eq_varyResult (writerTurn_of_nil hphase hwq) (writerTurn_of_nil (s := s.vary v calls) hphase hwq)
    | cons p q =>
      cases hhandle : s.handle p.dev with
      | opened =>
        refine eq_varyResult (writerTurn_of_cons hphase hwq hhandle)
          ((writerTurn_of_cons (s := s.vary v calls) hphase hwq ((handle_vary _).trans hhandle)).trans ?_)
        exact congrArg Host.Outcome.next (sendPayload_vary (s := { s with wq := q }) p)
      | closed =>
        exact eq_varyResult (writerTurn_of_closed hphase hwq hhandle)
          (writerTurn_of_closed (s := s.vary v calls) hphase hwq ((handle_vary _).trans hhandle))

/-! ### START -/

/-- The record `calls` of the run with the other values beside that of `t`: the same addresses, and the same calls where
the bus is the same. -/
def SameCalls (v : Unread) (t : State) (calls : List (Nat × Addr7)) : Prop :=
  calls.map Prod.snd = t.openCalls.map Prod.snd ∧ (v.bus = t.cfg.bus → calls = t.openCalls)

theorem SameCalls.refl (v : Unread) (t : State) : SameCalls v t t.openCalls := ⟨rfl, fun _ => rfl⟩

theorem State.nextOpen_of_cons {s : State} {r : OpenResult} {rs : List OpenResult} (d : Device)
    (h : s.answers.opens = r :: rs) : s.nextOpen d = r := by
  rw [State.nextOpen, h]

theorem State.nextOpen_of_nil {s : State} (d : Device) (h : s.answers.opens = []) :
    s.nextOpen d = Config.freeOpen (targetOf s.cfg d) s.draws := by
  rw [State.nextOpen, h]

theorem targetOf_apply (v : Unread) (p : Params) (d : Device) : targetOf (v.apply p) d = (v.bus, addrOf p d) := by
  cases d <;> rfl

/-- What the transport answers does not tell the buses apart where the sheet holds its answer. -/
theorem nextOpen_vary (d : Device) (h : v.bus = s.cfg.bus ∨ s.answers.opens ≠ []) :
    (s.vary v calls).nextOpen d = s.nextOpen d := by
  cases hopens : s.answers.opens with
  | nil =>
    have htarget : targetOf (v.apply s.cfg) d = targetOf s.cfg d := by
      rw [targetOf_apply, h.resolve_right (not_not.mpr hopens), targetOf]
    rw [State.nextOpen_of_nil d hopens, State.nextOpen_of_nil (s := s.vary v calls) d hopens]
    exact congrArg (Config.freeOpen · s.draws) htarget
  | cons r rs => rw [State.nextOpen_of_cons d hopens, State.nextOpen_of_cons (s := s.vary v calls) d hopens]

/-- `open` passes the bus on, and does no more with it. -/
theorem afterOpen_vary (d : Device) (h : v.bus = s.cfg.bus ∨ s.answers.opens ≠ []) :
    (s.vary v calls).afterOpen d = (s.afterOpen d).vary v (calls ++ [(v.bus, addrOf s.cfg d)]) := by
  unfold State.afterOpen
  rw [nextOpen_vary d h]
  cases s.nextOpen d <;> cases d <;> rfl

theorem SameCalls.afterOpen (h : SameCalls v s calls) (d : Device) :
    SameCalls v (s.afterOpen d) (calls ++ [(v.bus, addrOf s.cfg d)]) := by
  obtain ⟨haddr, hbus⟩ := h
  refine ⟨by simp [haddr, targetOf], fun hv => ?_⟩
  rw [State.afterOpen_cfg] at hv
  rw [State.afterOpen_openCalls, hbus hv, hv]
  rfl

/-- The calls are of no account to what the checks and `resync` make of the state reached. -/
theorem startDevicesOpen_vary (calls' : List (Nat × Addr7)) (s0 : State) :
    startDevicesOpen (s0.vary v calls') (s.vary v calls) = (startDevicesOpen s0 s).vary v calls := by
  cases hnow : hostTimeOk s.nextNow with
  | true =>
    rw [startDevicesOpen_of_ok s0 hnow, startDevicesOpen_of_ok (s := s.vary v calls) _ hnow]
    rfl
  | false =>
    rw [startDevicesOpen_of_not_ok s0 hnow, startDevicesOpen_of_not_ok (s := s.vary v calls) _ hnow]
    rfl

end

/-- The body of START in the other run: its own next state with the other values, and calls that agree with its own. -/
def StartVaries (v : Unread) (s : State) : Prop :=
  ∃ calls, startStep (s.vary v s.openCalls) = (startStep s).vary v calls ∧ SameCalls v (startStep s) calls

section
variable {v : Unread} {s : State}

theorem SameCalls.congr {t u : State} {calls : List (Nat × Addr7)} (h : SameCalls v u calls)
    (hcalls : t.openCalls = u.openCalls) (hcfg : t.cfg = u.cfg) : SameCalls v t calls := by
  rwa [SameCalls, hcalls, hcfg]

theorem startVaries_of_raise {code : FCode} (hs : startStep s = s.raise code)
    (hv : startStep (s.vary v s.openCalls) = (s.vary v s.openCalls).raise code) : StartVaries v s :=
  ⟨s.openCalls, by rw [hs, hv]; rfl, hs ▸ SameCalls.refl v (s.raise code)⟩

/-- The record of the calls after both opens of a START, with the other bus. -/
def State.startCalls (s : State) (v : Unread) : List (Nat × Addr7) :=
  s.openCalls ++ [(v.bus, addrOf s.cfg .a)] ++ [(v.bus, addrOf s.cfg .b)]

theorem startDevicesOpen_openCalls (s u : State) : (startDevicesOpen s u).openCalls = u.openCalls := by
  obtain ⟨-, heq⟩ | ⟨-, heq⟩ := startDevicesOpen_cases s u <;> rw [heq] <;> simp

theorem startDevicesOpen_cfg {s u : State} (h : u.cfg = s.cfg) : (startDevicesOpen s u).cfg = u.cfg := by
  obtain ⟨-, heq⟩ | ⟨-, heq⟩ := startDevicesOpen_cases s u <;> rw [heq] <;> simp [h]

section
variable (h : v.bus = s.cfg.bus ∨ 2 ≤ s.answers.opens.length)
include h

/-- The first of two answers on the sheet is the one for device A. -/
theorem firstAnswer_of_two : v.bus = s.cfg.bus ∨ s.answers.opens ≠ [] :=
  h.imp_right fun hlen hnil => by simp [hnil] at hlen

/-- The second is left for device B. -/
theorem secondAnswer_of_two : v.bus = (s.afterOpen .a).cfg.bus ∨ (s.afterOpen .a).answers.opens ≠ [] := by
  rw [State.afterOpen_cfg, State.afterOpen_answers]
  refine h.imp_right fun hlen htail => ?_
  have hlength : s.answers.opens.length - 1 = 0 := List.length_tail.symm.trans (congrArg List.length htail)
  omega

theorem afterOpen_a_vary : (s.vary v s.openCalls).afterOpen .a =
    (s.afterOpen .a).vary v (s.openCalls ++ [(v.bus, addrOf s.cfg .a)]) :=
  afterOpen_vary .a (firstAnswer_of_two h)

theorem bothOpened_vary : (s.vary v s.openCalls).bothOpened = s.bothOpened.vary v (s.startCalls v) := by
  rw [State.bothOpened, afterOpen_a_vary h, afterOpen_vary .b (secondAnswer_of_two h), State.afterOpen_cfg]
  rfl

theorem nextOpen_b_vary : ((s.vary v s.openCalls).afterOpen .a).nextOpen .b = (s.afterOpen .a).nextOpen .b := by
  rw [afterOpen_a_vary h, nextOpen_vary .b (secondAnswer_of_two h)]

end

theorem sameCalls_bothOpened (v : Unread) (s : State) : SameCalls v s.bothOpened (s.startCalls v) := by
  have hsame := ((SameCalls.refl v s).afterOpen .a).afterOpen .b
  rwa [State.afterOpen_cfg s .a] at hsame

/-- Before both devices are open each call of `open` is made with the other bus; after that the runs are alike. -/
theorem startVaries_of_off (hphase : s.phase = .off) (haddr : s.cfg.addrA ≠ s.cfg.addrB)
    (h : v.bus = s.cfg.bus ∨ 2 ≤ s.answers.opens.length) : StartVaries v s := by
  have hanswerA : (s.vary v s.openCalls).nextOpen .a = s.nextOpen .a := nextOpen_vary .a (firstAnswer_of_two h)
  have hanswerB := nextOpen_b_vary h
  have hsameA := (SameCalls.refl v s).afterOpen .a
  have hsameB := sameCalls_bothOpened v s
  have hcfg : s.bothOpened.cfg = s.cfg := (InstrFrame.bothOpened s).cfg
  unfold StartVaries
  cases hrA : s.nextOpen .a with
  | error =>
    rw [startStep_of_openA_error hphase haddr hrA,
      startStep_of_openA_error (s := s.vary v s.openCalls) hphase haddr (hanswerA.trans hrA), afterOpen_a_vary h]
    exact ⟨_, rfl, hsameA.congr rfl (State.afterOpen_cfg s .a).symm⟩
  | ok =>
    cases hrB : (s.afterOpen .a).nextOpen .b with
    | error =>
      rw [startStep_of_openB_error hphase haddr hrA hrB,
        startStep_of_openB_error (s := s.vary v s.openCalls) hphase haddr (hanswerA.trans hrA)
          (hanswerB.trans hrB), bothOpened_vary h]
      exact ⟨_, rfl, hsameB.congr rfl hcfg.symm⟩
    | ok =>
      rw [startStep_of_open_ok hphase haddr hrA hrB, startStep_of_open_ok (s := s.vary v s.openCalls) hphase haddr
        (hanswerA.trans hrA) (hanswerB.trans hrB), bothOpened_vary h, startDevicesOpen_vary]
      exact ⟨_, rfl, hsameB.congr (startDevicesOpen_openCalls _ _) (startDevicesOpen_cfg hcfg)⟩

theorem startVaries (hphase : s.phase ≠ .fatal) (h : v.bus = s.cfg.bus ∨ 2 ≤ s.answers.opens.length) :
    StartVaries v s := by
  cases hp : s.phase with
  | fatal => exact absurd hp hphase
  | run => exact startVaries_of_raise (startStep_of_run hp) (startStep_of_run hp)
  | off =>
    by_cases haddr : s.cfg.addrA = s.cfg.addrB
    · exact startVaries_of_raise (startStep_of_addr_eq hp haddr) (startStep_of_addr_eq hp haddr)
    · exact startVaries_of_off hp haddr h

/-- START, where the sheet holds the host's answers to both opens or the bus is the same. -/
theorem exec_start_vary (h : v.bus = s.cfg.bus ∨ 2 ≤ s.answers.opens.length) :
    ∃ calls, exec .start (s.vary v s.openCalls) = varyResult v calls (exec .start s) ∧
      ∀ t, exec .start s = .next t → SameCalls v t calls := by
  by_cases hphase : s.phase = .fatal
  · refine ⟨s.openCalls, eq_varyResult (exec_of_fatal _ hphase) (exec_of_fatal (s := s.vary v s.openCalls) _ hphase),
      fun t ht => absurd hphase (exec_next ht).1⟩
  · by_cases hwq : s.wq = []
    · obtain ⟨calls, heq, hsame⟩ := startVaries hphase h
      rw [exec_start_of_nil hphase hwq, exec_start_of_nil (s := s.vary v s.openCalls) hphase hwq, heq]
      refine ⟨calls, rfl, ?_⟩
      rintro t ⟨⟩
      exact hsame
    · have hbusy : s.busy = true := State.busy_eq_true.mpr hwq
      rw [exec_start_of_busy hphase hbusy, exec_start_of_busy (s := s.vary v s.openCalls) hphase hbusy]
      refine ⟨s.openCalls, rfl, ?_⟩
      rintro t ⟨⟩
      exact SameCalls.refl v s

end

/-! ### The step -/

/-- What an instruction does with the other values, whichever it is. -/
theorem exists_exec_vary {v : Unread} {s : State} (i : Instr) (h : v.bus = s.cfg.bus ∨ 2 ≤ s.answers.opens.length) :
    ∃ calls, exec i (s.vary v s.openCalls) = varyResult v calls (exec i s) ∧
      ∀ t, exec i s = .next t → SameCalls v t calls ∧ (i ≠ .start → calls = t.openCalls) := by
  by_cases hi : i = .start
  · subst hi
    obtain ⟨calls, heq, hsame⟩ := exec_start_vary h
    exact ⟨calls, heq, fun t ht => ⟨hsame t ht, fun hne => absurd rfl hne⟩⟩
  · refine ⟨s.openCalls, exec_vary hi, fun t ht => ?_⟩
    have hcalls : t.openCalls = s.openCalls := (exec_next ht).2.frame.calls hi
    exact ⟨hcalls ▸ SameCalls.refl v t, fun _ => hcalls.symm⟩

theorem writerTurn_openCalls {s t : State} (h : writerTurn s = .next t) : t.openCalls = s.openCalls := by
  obtain ⟨-, ⟨-, rfl⟩ | ⟨p, q, -, -, rfl⟩⟩ := writerTurn_next h
  · rfl
  · exact State.busWrite_openCalls ..

/-- What a step does with the other values. -/
def StepVaries (v : Unread) (s : State) : Prop :=
  ∃ calls, step (s.vary v s.openCalls) = varyResult v calls (step s) ∧
    ∀ t, step s = .next t → SameCalls v t calls ∧ ((∀ r, s.sched ≠ .present (.cmd 0x01#8) :: r) → calls = t.openCalls)

theorem stepVaries_of_writerTurn {v : Unread} {s u : State} (hs : step s = writerTurn u)
    (hv : step (s.vary v s.openCalls) = writerTurn (u.vary v u.openCalls)) : StepVaries v s := by
  refine ⟨u.openCalls, by rw [hs, hv, writerTurn_vary], fun t ht => ?_⟩
  have hkept : t.openCalls = u.openCalls := writerTurn_openCalls (hs ▸ ht)
  exact ⟨hkept ▸ SameCalls.refl v t, fun _ => hkept.symm⟩

theorem stepVaries_of_next {v : Unread} {s u : State} (hs : step s = .next u)
    (hv : step (s.vary v s.openCalls) = .next (u.vary v u.openCalls)) : StepVaries v s := by
  refine ⟨u.openCalls, by rw [hs, hv]; rfl, fun t ht => ?_⟩
  cases hs.symm.trans ht
  exact ⟨SameCalls.refl v u, fun _ => rfl⟩

theorem stepVaries {v : Unread} {s : State} (h : v.bus = s.cfg.bus ∨ 2 ≤ s.answers.opens.length) : StepVaries v s := by
  cases hsched : s.sched with
  | nil => exact stepVaries_of_writerTurn (step_of_nil hsched) (step_of_nil (s := s.vary v s.openCalls) hsched)
  | cons m r =>
    have hsched' : (s.vary v s.openCalls).sched = m :: r := hsched
    cases m with
    | present x =>
      obtain ⟨calls, heq, hsame⟩ := exists_exec_vary (s := { s with sched := r }) (decode x) h
      refine ⟨calls, by rw [step_of_present hsched, step_of_present hsched']; exact heq, fun t ht => ?_⟩
      rw [step_of_present hsched] at ht
      obtain ⟨hcalls, hother⟩ := hsame t ht
      refine ⟨hcalls, fun hne => hother fun hi => ?_⟩
      obtain ⟨r', hr'⟩ := presents_start hsched hi
      exact hne r' hr'
    | drain =>
      exact stepVaries_of_writerTurn (u := { s with sched := r }) (step_of_drain hsched) (step_of_drain hsched')
    | wait =>
      by_cases hdone : s.phase = .fatal ∨ s.wq = []
      · exact stepVaries_of_next (step_of_wait_of_done hsched hdone) (step_of_wait_of_done hsched' hdone)
      · obtain ⟨hphase, hwq⟩ := not_or.mp hdone
        exact stepVaries_of_writerTurn (step_of_wait_of_busy hsched hphase hwq)
          (step_of_wait_of_busy hsched' hphase hwq)
    | answers a => exact stepVaries_of_next (step_of_answers hsched) (step_of_answers hsched')
    | reset => exact stepVaries_of_next (step_of_reset hsched) (step_of_reset hsched')

/-- Settles O45: the step with the other values is the step, with them in the configuration of what it answers. -/
theorem unreadParametersChangeNothing : Obligations.UnreadParametersChangeNothing := by
  intro s b tr pm xc xd h
  obtain ⟨calls, heq, hsame⟩ := stepVaries (v := ⟨b, tr, pm, xc, xd⟩) h
  intro o
  have ho : o = varyResult ⟨b, tr, pm, xc, xd⟩ calls (step s) := heq
  cases hstep : step s with
  | next t =>
    rw [hstep] at ho
    obtain ⟨⟨haddr, hbus⟩, hother⟩ := hsame t hstep
    exact ⟨calls, ho, haddr, fun hb => hbus (step_cfg hstep ▸ hb), hother⟩
  | fault f => rw [ho, hstep]; rfl
  | refused r => rw [ho, hstep]; rfl

end Sys2Proof.Machine
end
